-- ==== Sys2Proof/Word.lean ====
section
/-! DEFINITION. The word types of the guarded bus. -/

namespace Sys2Proof

/-- A bus word: 32 bits, bit 0 the least significant (00, section 0.7). -/
abbrev Word := BitVec 32

/-- One byte lane of a word. -/
abbrev Byte := BitVec 8

/-- The four byte-lane enables of an access (10, opening); lane i is bit i. -/
abbrev Lanes := BitVec 4

/-- A word address of the 1 M-word address space (00, section 0.3). -/
abbrev Address := BitVec 20

end Sys2Proof
end

