-- ==== Sys2Proof/Syntax.lean ====
section
/-! DEFINITION. The commands of the block: one constructor of `Instr` for each row of spec/opcode_table.json. -/

namespace Sys2Proof

/-- The four bus masters, told apart by the tag of each access (00, section 0.3). -/
inductive Master where
  /-- Tag 0, the control processor. -/
  | cp
  /-- Tag 1, the telemetry scanner. -/
  | ts
  /-- Tag 2, the drive link. -/
  | dl
  /-- Tag 3, the service port. -/
  | sp
deriving DecidableEq, Repr

/-- A two-word entry of the limit table area (R131). -/
inductive TwoWordEntry where
  /-- Channel entry c, words at 0x100 + 2c and 0x101 + 2c. -/
  | channel (c : Fin 30)
  /-- General entry Gg, words at 0x1C0 + 2g and 0x1C1 + 2g. -/
  | general (g : Fin 13)
deriving DecidableEq, Repr

/-- The three derating curves (R27). -/
inductive Curve where
  /-- The MODULE curve of HSK0 to HSK7. -/
  | modules
  /-- The COOLANT curve of CLIN and CLOUT. -/
  | coolant
  /-- The FILTER curve of FILT. -/
  | filter
deriving DecidableEq, Repr

/-- A one-word entry of the limit table area (R131). -/
inductive OneWordEntry where
  /-- Coarse entry i of a curve. -/
  | coarse (curve : Curve) (i : Fin 16)
  /-- Fine entry f. -/
  | fine (f : Fin 64)
  /-- Summary map word of source s. -/
  | summary (source : Fin 32)
deriving DecidableEq, Repr

/-- The commands, one constructor for each row of the table. A write command carries the written word; where the row's
accesses may have fewer than four byte lanes it carries the lanes; a read carries the transaction number its reply
returns with (10, opening). The region offset of an access is fixed by its row and operands (log entry 11). -/
inductive Instr where
  /-- FRAME_HEADER_WRITE (R3): a full-lane scanner write to slot 0. -/
  | frameHeaderWrite (word : Word)
  /-- DATA_SLOT_WRITE (R6): a full-lane scanner write to a slot 1 to 30. -/
  | dataSlotWrite (slot : Fin 32) (word : Word)
  /-- FRAME_END (R8): a full-lane scanner write to slot 31. -/
  | frameEnd (word : Word)
  /-- FRAME_TIMEOUT_EXPIRY (R11). -/
  | frameTimeoutExpiry
  /-- EVALUATION_COMPLETION (R14). -/
  | evaluationCompletion
  /-- LIMIT_WORD_A_WRITE (R138): a full-lane write of word A by CP or SP. -/
  | limitWordAWrite (master : Master) (entry : TwoWordEntry) (word : Word)
  /-- LIMIT_WORD_B_WRITE (R139): a full-lane write of word B by CP or SP. -/
  | limitWordBWrite (master : Master) (entry : TwoWordEntry) (word : Word)
  /-- LIMIT_ONE_WORD_WRITE (R140): a full-lane write of a one-word entry by CP or SP. -/
  | limitOneWordWrite (master : Master) (entry : OneWordEntry) (word : Word)
  /-- DL_EXCITER_DRIVE_READ (R79). -/
  | dlExciterDriveRead (transaction : BitVec 4)
  /-- DL_TRIM_READ (R80) of trim word m. -/
  | dlTrimRead (m : Fin 8) (transaction : BitVec 4)
  /-- DL_GATE_READ (R81) of gate word m. -/
  | dlGateRead (m : Fin 8) (transaction : BitVec 4)
  /-- HOLD_OFF_EXPIRY (R86): the oldest held read reaches its expiry moment. -/
  | holdOffExpiry
  /-- ARC_LINE_ASSERT (R91). -/
  | arcLineAssert (input : Fin 3)
  /-- ARC_LINE_DEASSERT (R91). -/
  | arcLineDeassert (input : Fin 3)
  /-- ARC_QUALIFY_EXPIRY (R93). -/
  | arcQualifyExpiry (input : Fin 3)
  /-- ARC_RELEASE_EXPIRY (R91). -/
  | arcReleaseExpiry (input : Fin 3)
  /-- STUCK_TIMER_EXPIRY (R99). -/
  | stuckTimerExpiry (input : Fin 3)
  /-- STRIKE_ENTRY_AGEING (R98): the oldest strike list entry reaches its age. -/
  | strikeEntryAgeing
  /-- INTERLOCK_OPEN (R120). -/
  | interlockOpen
  /-- INTERLOCK_CLOSE (R120). -/
  | interlockClose
  /-- SETTLE_EXPIRY (R111). -/
  | settleExpiry
  /-- QUENCH_EXPIRY (R113). -/
  | quenchExpiry
  /-- DISCHARGE_EXPIRY (R114). -/
  | dischargeExpiry
  /-- RESTART (R121): a write to request word 0x400. -/
  | restart (master : Master) (lanes : Lanes) (value : Word)
  /-- STOP (R125): a write to request word 0x401. -/
  | stop (master : Master) (lanes : Lanes) (value : Word)
  /-- READMIT (R64): a write to request word 0x402. -/
  | readmit (master : Master) (lanes : Lanes) (value : Word)
  /-- STRIKE_CLEAR (R104): a write to request word 0x403. -/
  | strikeClear (master : Master) (lanes : Lanes) (value : Word)
  /-- JOURNAL_CLEAR (R163): a write to request word 0x404. -/
  | journalClear (master : Master) (lanes : Lanes) (value : Word)
  /-- OWNERSHIP_CLEAR (R160): a write to request word 0x405. -/
  | ownershipClear (master : Master) (lanes : Lanes) (value : Word)
  /-- CAPTURE_ARM (R170): a write to request word 0x406. -/
  | captureArm (master : Master) (lanes : Lanes) (value : Word)
  /-- CAPTURE_STOP (R174): a write to request word 0x407. -/
  | captureStop (master : Master) (lanes : Lanes) (value : Word)
  /-- OWNERSHIP_WORD_READ (R159). -/
  | ownershipWordRead (master : Master) (transaction : BitVec 4)
  /-- OWNERSHIP_WORD_WRITE (R160). -/
  | ownershipWordWrite (master : Master) (lanes : Lanes) (value : Word)
  /-- HEAD_WINDOW_WORD0_READ (R161). -/
  | headWindowWord0Read (master : Master) (transaction : BitVec 4)
  /-- HEAD_WINDOW_WORD_READ (R161) of word 1, 2 or 3. -/
  | headWindowWordRead (master : Master) (word : Fin 4) (transaction : BitVec 4)
  /-- CP_S0_READ (R165). -/
  | cpS0Read (transaction : BitVec 4)
  /-- CAPTURE_START_ALIAS_READ (R177). -/
  | captureStartAliasRead (master : Master) (transaction : BitVec 4)
  /-- CAPTURE_CONTINUE_ALIAS_READ (R177). -/
  | captureContinueAliasRead (master : Master) (transaction : BitVec 4)
  /-- ABSORBED_WRITE (R186): a write access, by any master to any address (log entry 12). -/
  | absorbedWrite (master : Master) (address : Address) (lanes : Lanes) (value : Word)
  /-- RESET_ASSERT (R191), with the strap levels standing from then on. -/
  | resetAssert (straps : BitVec 8)
  /-- RESET_RELEASE (R192), with the strap levels standing at the release. -/
  | resetRelease (straps : BitVec 8)
  /-- MILLISECOND_COUNTER_TICK (R198). -/
  | millisecondCounterTick
deriving DecidableEq, Repr

end Sys2Proof
end

