-- ==== Sys2Proof/Machine/Bits.lean ====
section
/-! DEFINITION. Fields of words, saturating counts, and ages of timestamps. -/

namespace Sys2Proof.Machine

/-- The unsigned number in bits lo to lo + len - 1 of a word (R17, R194). -/
def field (w : Word) (lo len : Nat) : Nat := w.toNat / 2 ^ lo % 2 ^ len

/-- A one-bit field as a flag. -/
def flag (w : Word) (i : Nat) : Bool := field w i 1 == 1

/-- A number of `len` bits read as two's complement (R17, R194). -/
def toSigned (n len : Nat) : Int := if 2 ^ (len - 1) ≤ n then (n : Int) - 2 ^ len else n

/-- A signed field (R194). -/
def signedField (w : Word) (lo len : Nat) : Int := toSigned (field w lo len) len

/-- The 16-bit two's complement form of a number (R151, R171). -/
def signed16 (v : Int) : Nat := (v % 65536).toNat

/-- The number that fields (value, lowest bit, width) make, each in its place (R195, R196). -/
def packSum : List (Nat × Nat × Nat) → Nat
  | [] => 0
  | (v, lo, len) :: rest => v % 2 ^ len * 2 ^ lo + packSum rest

/-- The word whose fields (value, lowest bit, width) are given, every other bit 0 (R195, R196). -/
def pack (fields : List (Nat × Nat × Nat)) : Word := BitVec.ofNat 32 (packSum fields)

/-- A word with its low 16 bits, the request field of R194, replaced. -/
def withLowHalf (w : Word) (v : Nat) : Word := BitVec.ofNat 32 (w.toNat / 65536 * 65536 + v % 65536)

/-- A saturating count increased by one (00, section 0.7). -/
def countUp (cap n : Nat) : Nat := min (n + 1) cap

/-- A number brought into lo..hi (R145). -/
def clampNat (lo hi n : Nat) : Nat := max lo (min hi n)

/-- A signed number brought into lo..hi (R19, R145). -/
def clampInt (lo hi n : Int) : Int := max lo (min hi n)

/-- The age of a timestamp: the counter minus the timestamp, modulo 2^32 (R198). -/
def age (now stamp : Word) : Nat := (now - stamp).toNat

/-- The counter has reached a timer's expiry value: the wrapping distance past it is below 2^31 (log entry 5). -/
def reached (now moment : Word) : Bool := (now - moment).toNat < 2 ^ 31

end Sys2Proof.Machine
end

