-- ==== Sys2Proof/Config.lean ====
section
/-! DEFINITION. What the part fixes once and for all: capacities, lengths and full-scale values. The spec calls no
result of any command undefined, so no constant here is a free value. -/

namespace Sys2Proof.Config

/-- The largest drive code (00, section 0.7). -/
def fullDrive : Nat := 4095

/-- The fraction that restricts nothing (00, section 0.7). -/
def fullFraction : Nat := 4096

/-- The journal's capacity in records (R150). -/
def journalCapacity : Nat := 64

/-- Words of capture storage (09, opening; R170). -/
def captureWords : Nat := 2048

/-- Entries of the held-read queue (R84). -/
def heldReadCapacity : Nat := 4

/-- Secondary causes the trip cause holder can keep (R116). -/
def secondaryCapacity : Nat := 4

/-- Length of the stuck timer in milliseconds (R99). -/
def stuckTime : Nat := 2000

/-- Words in the protection region (R180). -/
def regionWords : Nat := 4096

/-- What a byte of the shared SRAM reads as while nothing has written it: DESIGN CHOICE, log entry 2. -/
def unwrittenByte : Byte := 0

end Sys2Proof.Config
end

