-- ==== Sys2Proof/Machine/State.lean ====
section
/-! DEFINITION. The state of the part, block by block (00, section 0.6), and its value right after reset release. -/

namespace Sys2Proof.Machine

/-! ### Named values -/

/-- The nine trip kinds (R116, R152). -/
inductive TripKind where
  | thermal | cooling | mismatch | modules | sensor | arcLockout | arcStuck | telemetryLoss | interlock
deriving DecidableEq, Repr

/-- Record kinds: NONE, the trip kinds and the eleven advisory kinds (R152). -/
inductive RecordKind where
  | none
  | trip (kind : TripKind)
  | arc | foldback | derate | moduleGated | moduleReadmitted | channelFailed | channelRestored
  | telemetryGap | frameOverrun | restart | stop
deriving DecidableEq, Repr

/-- Sequencer states (R107). -/
inductive SeqState where
  | off | settle | run | mute | discharge | tripped
deriving DecidableEq, Repr

/-- The destination of DISCHARGE (R107). -/
inductive Destination where
  | empty | off | tripped
deriving DecidableEq, Repr

/-- The eight requests (R187). -/
inductive Request where
  | restart | stop | readmit | strikeClear | journalClear | ownershipClear | captureArm | captureStop
deriving DecidableEq, Repr

/-- Request results (R187, R193); REFUSED_CAUSE carries the kind of the check that failed. -/
inductive RequestResult where
  | accepted | refusedState | refusedCause (kind : TripKind) | refusedMaster | refusedArgument | refusedOwner
deriving DecidableEq, Repr

/-- The words of the setpoint area the part substitutes (R79, R80, R81). -/
inductive Setpoint where
  | exciter | trim (m : Fin 8) | gate (m : Fin 8)
deriving DecidableEq, Repr

/-! ### Limits -/

/-- A channel entry in effect (R133). -/
structure ChannelEntry where
  slot : Nat
  offset : Nat
  width : Nat
  signed : Bool
  present : Bool
  required : Bool
  scale : Nat
  shift : Nat
  trip : Int
deriving DecidableEq, Repr

/-- A coarse entry in effect (R134). -/
structure CoarseEntry where
  refined : Bool
  value : Nat
  block : Fin 8
deriving DecidableEq, Repr

/-- A summary map word in effect (R136). -/
structure MapEntry where
  mapped : Bool
  bit : Fin 32
  sense : Bool
deriving DecidableEq, Repr

/-- The general entries in effect (R135). -/
structure General where
  prlim : Nat
  pfmin : Nat
  rho2trip : Nat
  vswrPersist : Nat
  rho2mod : Nat
  modPersist : Nat
  modFmin : Nat
  rise : Nat
  holdMax : Nat
  flowMin : Nat
  flowFrames : Nat
  flowHyst : Nat
  thyst : Nat
  fp : Nat
  quench : Nat
  strikeLimit : Nat
  window : Nat
  settle : Nat
  discharge : Nat
  frameTimeout : Nat
  autoThermal : Bool
  autoCooling : Bool
  autoInterlock : Bool
  gateLimit : Nat
  bModule : Int
  bCoolant : Int
  bFilter : Int
  attentionMask : Word
  triggerMask : Word
  pattern : BitVec 30
deriving DecidableEq, Repr

/-- The effective limit table (R132). -/
structure EffectiveTable where
  channels : Vector ChannelEntry 30
  modulesCurve : Vector CoarseEntry 16
  coolantCurve : Vector CoarseEntry 16
  filterCurve : Vector CoarseEntry 16
  fine : Vector Nat 64
  general : General
  summary : Vector MapEntry 32
deriving DecidableEq, Repr

/-- The pending-update set: at most one update for each entry, with its words as written (R141). -/
structure PendingUpdates where
  channels : Vector (Option (Word × Word)) 30
  general : Vector (Option (Word × Word)) 13
  modulesCurve : Vector (Option Word) 16
  coolantCurve : Vector (Option Word) 16
  filterCurve : Vector (Option Word) 16
  fine : Vector (Option Word) 64
  summary : Vector (Option Word) 32
deriving DecidableEq, Repr

/-- The Limit Table's state (R132, R141). -/
structure LimitTable where
  effective : EffectiveTable
  pendingSet : PendingUpdates
deriving DecidableEq, Repr

/-! ### Telemetry Decoder -/

/-- The snapshot of a closed frame (R8). -/
structure Snapshot where
  seq : BitVec 8
  words : Vector Word 30
  marks : Vector Bool 30
deriving DecidableEq, Repr

/-- A channel record (R15); `fraction` and `derateOpen` are used by the thermal channels 18 to 28 (R26). -/
structure ChannelRecord where
  value : Int
  faults : Nat
  failed : Bool
  present : Bool
  required : Bool
  signed : Bool
  fraction : Nat
  derateOpen : Bool
deriving DecidableEq, Repr

/-- The Telemetry Decoder's state (R2, R10, R11, R12, R15). Latches and marks stand at index slot - 1. The frame timer is
none while stopped and holds the counter value of the last frame end while running. -/
structure TelemetryDecoder where
  frameOpen : Bool
  latches : Vector Word 30
  marks : Vector Bool 30
  frameSeq : BitVec 8
  lastSeq : BitVec 8
  frameSeen : Bool
  abandoned : Nat
  discarded : Nat
  orphans : Nat
  pendingSnapshot : Option Snapshot
  frameTimer : Option Word
  telemetryLost : Bool
  channels : Vector ChannelRecord 30
deriving DecidableEq, Repr

/-! ### Derating, Mismatch and Ceiling Units -/

/-- The Derating Unit's state but for the fields in the channel records (R26). -/
structure DeratingUnit where
  thermal : Bool
  hot : Vector Bool 8
  flowCounter : Nat
  cooling : Bool
deriving DecidableEq, Repr

/-- An entry of the admission table: the admission state and the cause set (R60). -/
structure Admission where
  gated : Bool
  hot : Bool
  mismatch : Bool
  sensor : Bool
deriving DecidableEq, Repr

/-- The Mismatch Unit's state (R47). -/
structure MismatchUnit where
  v : Nat
  foldbackOpen : Bool
  outputCounter : Nat
  moduleCounters : Vector Nat 8
  admission : Vector Admission 8
deriving DecidableEq, Repr

/-- The outcome an evaluation computes for V (R48, R50). -/
inductive VOutcome where
  | fold (k : Nat) | rise | hold
deriving DecidableEq, Repr

/-- What one reading raised: a channel declared failed, or one restored, with the record's value (R21, R22). -/
structure ChannelEvent where
  channel : Fin 30
  restored : Bool
  value : Int
deriving DecidableEq, Repr

/-- An evaluation in flight: its snapshot, and what it computed at its start from its own decoded values and its own
effective limits (R14, R48). The limits its completion still needs stand beside the outcomes (R132). -/
structure Evaluation where
  snapshot : Snapshot
  /-- CHANNEL_FAILED and CHANNEL_RESTORED events in ascending channel index (R23). -/
  channelEvents : List ChannelEvent
  /-- New fractions of channels 18 to 28 (R30). -/
  fractions : Vector Nat 11
  hot : Vector Bool 8
  thermal : Bool
  flowCounter : Nat
  cooling : Bool
  vOutcome : VOutcome
  /-- The tests of R56 other than the sequencer's state. -/
  outputTest : Bool
  /-- The tests of R58 other than the sequencer's state. -/
  moduleTests : Vector Bool 8
  /-- Modules with a required channel unusable in this evaluation (R61). -/
  sensorCauses : Vector Bool 8
  rise : Nat
  vswrPersist : Nat
  modPersist : Nat
  gateLimit : Nat
deriving DecidableEq, Repr

/-- The Ceiling Unit's state (R70); the evaluation-in-flight flag is set while `evaluation` is some. -/
structure CeilingUnit where
  g : Nat
  c : Nat
  e : Nat
  cm : Vector Nat 8
  em : Vector Nat 8
  evaluation : Option Evaluation
deriving DecidableEq, Repr

/-! ### Arc Monitor and Sequencer -/

/-- Filter states (R90). The qualify timer runs exactly in QUALIFYING and the release timer exactly in RELEASING (R91). -/
inductive FilterState where
  | idle | qualifying | held | releasing
deriving DecidableEq, Repr

/-- One arc input: its filter, its stuck timer (none while stopped, else the counter value at its start) and its stuck
flag (R90, R99). -/
structure ArcInput where
  filter : FilterState
  stuckTimer : Option Word
  stuck : Bool
deriving DecidableEq, Repr

/-- A strike list entry (R90). -/
structure Strike where
  detector : Fin 3
  timestamp : Word
deriving DecidableEq, Repr

/-- The Arc Monitor's state (R90); strikes oldest first. -/
structure ArcMonitor where
  inputs : Vector ArcInput 3
  strikes : List Strike
deriving DecidableEq, Repr

/-- The sequencer's state (R107, R109, R116). A timer is none while stopped, else the counter value of its expiry. The
waiting flag is that of the standing state, SETTLE or MUTE. -/
structure Sequencer where
  state : SeqState
  destination : Destination
  settleTimer : Option Word
  quenchTimer : Option Word
  dischargeTimer : Option Word
  waiting : Bool
  primary : Option TripKind
  secondary : List TripKind
deriving DecidableEq, Repr

/-! ### Fault Journal and Capture Unit -/

/-- A journal record (R151). -/
structure Record where
  seq : BitVec 16
  kind : RecordKind
  source : Nat
  timestamp : Word
  value : Int
  repeats : Nat
  seqState : SeqState
  openFlag : Bool
  closedFlag : Bool
  automatic : Bool
  noRf : Bool
  extra : Word
deriving DecidableEq, Repr

/-- An open reference that is filled (R157). -/
structure OpenRef where
  seq : BitVec 16
  timestamp : Word
deriving DecidableEq, Repr

/-- A filled read latch: the record's copy and the held mark (R161). -/
structure ReadLatch where
  copy : Record
  held : Bool
deriving DecidableEq, Repr

/-- The journal's owner (R150). -/
inductive Owner where
  | free | cp | sp
deriving DecidableEq, Repr

/-- The Fault Journal's state (R150); records oldest first, latches by master tag. -/
structure FaultJournal where
  records : List Record
  nextSeq : BitVec 16
  overflow : Nat
  foldbackRef : Option OpenRef
  derateRefs : Vector (Option OpenRef) 11
  owner : Owner
  readLatches : Vector (Option ReadLatch) 4
  attention : Bool
deriving DecidableEq, Repr

/-- Capture states (R169). -/
inductive CaptureState where
  | idle | armed | post | frozen
deriving DecidableEq, Repr

/-- Capture modes (R169). -/
inductive CaptureMode where
  | single | continuous
deriving DecidableEq, Repr

/-- A frame record (R171): the header's fields and the values of the pattern's channels in ascending index. -/
structure FrameRecord where
  seq : BitVec 8
  seqState : SeqState
  mark : Bool
  e : Nat
  values : List Int
deriving DecidableEq, Repr

/-- The Capture Unit's state (R169); ring oldest first. -/
structure CaptureUnit where
  state : CaptureState
  mode : CaptureMode
  pattern : BitVec 30
  recordSize : Nat
  capacity : Nat
  postCount : Nat
  postRemaining : Nat
  ring : List FrameRecord
  preTrigger : Nat
  cursorCp : Nat
  cursorSp : Nat
deriving DecidableEq, Repr

/-! ### Bus Passage, pins and the whole -/

/-- A held drive-link read (R84): its word, its transaction number, and the HOLD_MAX in effect at its arrival, from which
its expiry moment follows (log entry 6). -/
structure HeldRead where
  word : Setpoint
  transaction : BitVec 4
  holdMax : Nat
deriving DecidableEq, Repr

/-- The content of S4: the last request taken (R187). -/
structure LastRequest where
  request : Request
  master : Master
  result : RequestResult
deriving DecidableEq, Repr

/-- The Bus Passage's state (R84, R86, R137, R180, R187, R189); held reads oldest first. -/
structure BusPassage where
  regionBase : BitVec 8
  stagingCp : Option (TwoWordEntry × Word)
  stagingSp : Option (TwoWordEntry × Word)
  heldReads : List HeldRead
  expiryCount : Nat
  expiryFlag : Bool
  misuseCount : Nat
  lastMisuse : BitVec 12
  lastRequest : Option LastRequest
deriving DecidableEq, Repr

/-- The standing levels of the input lines (00, section 0.4). -/
structure Pins where
  resetAsserted : Bool
  straps : BitVec 8
  arcLines : Vector Bool 3
  interlockOpen : Bool
deriving DecidableEq, Repr

/-- A reply to a read: the reading master, its transaction number and the word (R190). -/
structure Reply where
  master : Master
  transaction : BitVec 4
  data : Word
deriving DecidableEq, Repr

/-- The shared SRAM: (byte address, byte) pairs, byte address 4 x word address + lane (log entry 1). -/
abbrev Memory := List Host.Cell

/-- The whole machine: the blocks of 00 section 0.6, the lines, the millisecond counter (R198), the shared SRAM, the
replies given so far (the model's own, log entry 10), and the commands waiting. -/
structure State where
  td : TelemetryDecoder
  lt : LimitTable
  du : DeratingUnit
  mu : MismatchUnit
  cu : CeilingUnit
  am : ArcMonitor
  sq : Sequencer
  fj : FaultJournal
  cap : CaptureUnit
  bp : BusPassage
  pins : Pins
  msCounter : Word
  mem : Memory
  replies : List Reply
  pending : List Instr
deriving DecidableEq, Repr

/-- Why a step could stop the machine. The spec gives no such case: nothing on the bus is refused with a bus error (10,
opening), so there is no constructor. -/
inductive Fault where
deriving DecidableEq, Repr

/-- Why a command could have no meaning. -/
inductive Refusal where
  /-- Raised by a refused arm of exec alone, for a command not yet modelled: safe. No arm is refused. -/
  | notModelled (mnemonic : String)
deriving DecidableEq, Repr

/-! ### Reset values -/

/-- Reset default of a channel entry (R148). -/
def ChannelEntry.reset (c : Fin 30) : ChannelEntry where
  slot := 0
  offset := 0
  width := 0
  signed := false
  present := false
  required := true
  scale := 1
  shift := 0
  trip := if 18 ≤ c.val ∧ c.val ≤ 28 then 850 else 0

/-- Reset default of a coarse entry (R148). -/
def CoarseEntry.reset : CoarseEntry := { refined := false, value := Config.fullFraction, block := 0 }

/-- Reset defaults of the general entries (R148). -/
def General.reset : General where
  prlim := 200
  pfmin := 500
  rho2trip := 164
  vswrPersist := 3
  rho2mod := 410
  modPersist := 5
  modFmin := 50
  rise := 16
  holdMax := 40
  flowMin := 300
  flowFrames := 20
  flowHyst := 20
  thyst := 50
  fp := 3
  quench := 100
  strikeLimit := 4
  window := 60
  settle := 500
  discharge := 500
  frameTimeout := 10
  autoThermal := false
  autoCooling := false
  autoInterlock := false
  gateLimit := 2
  bModule := 500
  bCoolant := 300
  bFilter := 400
  attentionMask := 0x000003FE
  triggerMask := 0x000007FE
  pattern := 0

/-- The effective table's reset defaults (R148). -/
def EffectiveTable.reset : EffectiveTable where
  channels := Vector.ofFn ChannelEntry.reset
  modulesCurve := Vector.replicate 16 CoarseEntry.reset
  coolantCurve := Vector.replicate 16 CoarseEntry.reset
  filterCurve := Vector.replicate 16 CoarseEntry.reset
  fine := Vector.replicate 64 Config.fullFraction
  general := General.reset
  summary := Vector.replicate 32 { mapped := false, bit := 0, sense := false }

/-- The empty pending-update set (R141). -/
def PendingUpdates.empty : PendingUpdates where
  channels := Vector.replicate 30 none
  general := Vector.replicate 13 none
  modulesCurve := Vector.replicate 16 none
  coolantCurve := Vector.replicate 16 none
  filterCurve := Vector.replicate 16 none
  fine := Vector.replicate 64 none
  summary := Vector.replicate 32 none

/-- The Limit Table at reset (R148). -/
def LimitTable.reset : LimitTable := { effective := EffectiveTable.reset, pendingSet := PendingUpdates.empty }

/-- A channel record at reset (R15): absent and required. -/
def ChannelRecord.reset : ChannelRecord where
  value := 0
  faults := 0
  failed := false
  present := false
  required := true
  signed := false
  fraction := Config.fullFraction
  derateOpen := false

/-- The Telemetry Decoder at reset (R2, R10, R11). -/
def TelemetryDecoder.reset : TelemetryDecoder where
  frameOpen := false
  latches := Vector.replicate 30 0
  marks := Vector.replicate 30 false
  frameSeq := 0
  lastSeq := 0
  frameSeen := false
  abandoned := 0
  discarded := 0
  orphans := 0
  pendingSnapshot := none
  frameTimer := none
  telemetryLost := true
  channels := Vector.replicate 30 ChannelRecord.reset

/-- The Derating Unit at reset (R26). -/
def DeratingUnit.reset : DeratingUnit where
  thermal := false
  hot := Vector.replicate 8 false
  flowCounter := 0
  cooling := false

/-- The Mismatch Unit at reset (R47, R60). -/
def MismatchUnit.reset : MismatchUnit where
  v := Config.fullDrive
  foldbackOpen := false
  outputCounter := 0
  moduleCounters := Vector.replicate 8 0
  admission := Vector.replicate 8 { gated := false, hot := false, mismatch := false, sensor := false }

/-- The Ceiling Unit at reset (R70). -/
def CeilingUnit.reset : CeilingUnit where
  g := Config.fullDrive
  c := Config.fullDrive
  e := 0
  cm := Vector.replicate 8 Config.fullDrive
  em := Vector.replicate 8 0
  evaluation := none

/-- An arc input at reset (R90). -/
def ArcInput.reset : ArcInput := { filter := .idle, stuckTimer := none, stuck := false }

/-- The Arc Monitor at reset (R90). -/
def ArcMonitor.reset : ArcMonitor := { inputs := Vector.replicate 3 ArcInput.reset, strikes := [] }

/-- The sequencer at reset (R107, R129). -/
def Sequencer.reset : Sequencer where
  state := .off
  destination := .empty
  settleTimer := none
  quenchTimer := none
  dischargeTimer := none
  waiting := false
  primary := none
  secondary := []

/-- The Fault Journal at reset (R150). -/
def FaultJournal.reset : FaultJournal where
  records := []
  nextSeq := 0
  overflow := 0
  foldbackRef := none
  derateRefs := Vector.replicate 11 none
  owner := .free
  readLatches := Vector.replicate 4 none
  attention := false

/-- The Capture Unit at reset (R169). -/
def CaptureUnit.reset : CaptureUnit where
  state := .idle
  mode := .single
  pattern := 0
  recordSize := 1
  capacity := Config.captureWords
  postCount := 0
  postRemaining := 0
  ring := []
  preTrigger := 0
  cursorCp := 0
  cursorSp := 0

/-- The Bus Passage at reset (R84, R86, R137, R187, R189). No base is held during reset (R180); the 0 written here is
read by nothing until the release samples the straps. -/
def BusPassage.reset : BusPassage where
  regionBase := 0
  stagingCp := none
  stagingSp := none
  heldReads := []
  expiryCount := 0
  expiryFlag := false
  misuseCount := 0
  lastMisuse := 0
  lastRequest := none

/-- The machine right after reset release, with strap levels 0, no arc line asserted and the interlock closed
(DESIGN CHOICE, log entry 3), nothing in memory (log entry 2) and no command waiting. -/
def State.reset : State where
  td := TelemetryDecoder.reset
  lt := LimitTable.reset
  du := DeratingUnit.reset
  mu := MismatchUnit.reset
  cu := CeilingUnit.reset
  am := ArcMonitor.reset
  sq := Sequencer.reset
  fj := FaultJournal.reset
  cap := CaptureUnit.reset
  bp := BusPassage.reset
  pins := { resetAsserted := false, straps := 0, arcLines := Vector.replicate 3 false, interlockOpen := false }
  msCounter := 0
  mem := []
  replies := []
  pending := []

end Sys2Proof.Machine
end

