-- ==== Sys2Proof/Machine/Codes.lean ====
section
/-! DEFINITION. The codes of named values (R193) and the master tags (00, section 0.3). -/

namespace Sys2Proof.Machine

/-- The tag of a master. -/
def masterTag : Master → Nat
  | .cp => 0
  | .ts => 1
  | .dl => 2
  | .sp => 3

/-- The index of a master's read latch: its tag. -/
def masterIndex : Master → Fin 4
  | .cp => 0
  | .ts => 1
  | .dl => 2
  | .sp => 3

/-- Codes of the trip kinds. -/
def tripCode : TripKind → Nat
  | .thermal => 1
  | .cooling => 2
  | .mismatch => 3
  | .modules => 4
  | .sensor => 5
  | .arcLockout => 6
  | .arcStuck => 7
  | .telemetryLoss => 8
  | .interlock => 9

/-- Codes of the record kinds. -/
def kindCode : RecordKind → Nat
  | .none => 0
  | .trip k => tripCode k
  | .arc => 10
  | .foldback => 11
  | .derate => 12
  | .moduleGated => 13
  | .moduleReadmitted => 14
  | .channelFailed => 15
  | .channelRestored => 16
  | .telemetryGap => 17
  | .frameOverrun => 18
  | .restart => 19
  | .stop => 20

/-- The code of a cause that may be absent: 0 when none is given. -/
def causeCode : Option TripKind → Nat
  | none => 0
  | some k => tripCode k

/-- Codes of the sequencer states. -/
def seqStateCode : SeqState → Nat
  | .off => 0
  | .settle => 1
  | .run => 2
  | .mute => 3
  | .discharge => 4
  | .tripped => 5

/-- Codes of the destinations. -/
def destinationCode : Destination → Nat
  | .empty => 0
  | .off => 1
  | .tripped => 2

/-- Codes of the requests. -/
def requestCode : Request → Nat
  | .restart => 1
  | .stop => 2
  | .readmit => 3
  | .strikeClear => 4
  | .journalClear => 5
  | .ownershipClear => 6
  | .captureArm => 7
  | .captureStop => 8

/-- Codes of the request results. -/
def resultCode : RequestResult → Nat
  | .accepted => 0
  | .refusedState => 1
  | .refusedCause _ => 2
  | .refusedMaster => 3
  | .refusedArgument => 4
  | .refusedOwner => 5

/-- The cause kind of a result: 0 but for REFUSED_CAUSE. -/
def resultCause : RequestResult → Nat
  | .refusedCause k => tripCode k
  | .accepted => 0
  | .refusedState => 0
  | .refusedMaster => 0
  | .refusedArgument => 0
  | .refusedOwner => 0

/-- Codes of the capture states. -/
def captureStateCode : CaptureState → Nat
  | .idle => 0
  | .armed => 1
  | .post => 2
  | .frozen => 3

/-- Codes of the capture modes. -/
def captureModeCode : CaptureMode → Nat
  | .single => 0
  | .continuous => 1

/-- Codes of the owner. -/
def ownerCode : Owner → Nat
  | .free => 0
  | .cp => 1
  | .sp => 2

/-- The cause set code of a MODULE_GATED value: bit 0 HOT, bit 1 MISMATCH, bit 2 SENSOR. -/
def causeSetCode (a : Admission) : Nat := a.hot.toNat + 2 * a.mismatch.toNat + 4 * a.sensor.toNat

/-- A record kind stands in a mask of G11: bit n stands for code n. -/
def inMask (mask : Word) (kind : RecordKind) : Bool := mask.getLsbD (kindCode kind)

/-- The kind is one of the eleven advisory kinds (R152). -/
def isAdvisory : RecordKind → Bool
  | .none => false
  | .trip _ => false
  | .arc => true
  | .foldback => true
  | .derate => true
  | .moduleGated => true
  | .moduleReadmitted => true
  | .channelFailed => true
  | .channelRestored => true
  | .telemetryGap => true
  | .frameOverrun => true
  | .restart => true
  | .stop => true

end Sys2Proof.Machine
end

