-- ==== Sys2Proof/Machine/Operands.lean ====
section
/-! DEFINITION. Where accesses fall: region offsets, the area an offset belongs to (R131, Section 10.2), and channels. -/

namespace Sys2Proof.Machine

/-! ### Channels (R15) -/

/-- FWD_m, channel m. -/
def fwdChannel (m : Fin 8) : Fin 30 := ⟨m.val, by omega⟩

/-- RFL_m, channel 8 + m. -/
def rflChannel (m : Fin 8) : Fin 30 := ⟨8 + m.val, by omega⟩

/-- HSK_m, channel 18 + m. -/
def hskChannel (m : Fin 8) : Fin 30 := ⟨18 + m.val, by omega⟩

/-- OUTF. -/
def outf : Fin 30 := 16

/-- OUTR. -/
def outr : Fin 30 := 17

/-- CLIN. -/
def clin : Fin 30 := 26

/-- CLOUT. -/
def clout : Fin 30 := 27

/-- FILT. -/
def filt : Fin 30 := 28

/-- FLOW. -/
def flow : Fin 30 := 29

/-- The thermal channels 18 to 28 (R26). -/
def thermalChannel (k : Fin 11) : Fin 30 := ⟨18 + k.val, by omega⟩

/-- The index of HSK_m among the thermal channels. -/
def hskIndex (m : Fin 8) : Fin 11 := ⟨m.val, by omega⟩

/-- The curve that serves a thermal channel (R27). -/
def curveOf (k : Fin 11) : Curve := if k.val < 8 then .modules else if k.val < 10 then .coolant else .filter

/-! ### Offsets of entries and words -/

/-- The offset of word A of a two-word entry (R131). -/
def wordAOffset : TwoWordEntry → Nat
  | .channel c => 0x100 + 2 * c.val
  | .general g => 0x1C0 + 2 * g.val

/-- The offset of word B of a two-word entry (R131). -/
def wordBOffset : TwoWordEntry → Nat
  | .channel c => 0x101 + 2 * c.val
  | .general g => 0x1C1 + 2 * g.val

/-- The offset of a one-word entry (R131). -/
def oneWordOffset : OneWordEntry → Nat
  | .coarse .modules i => 0x140 + i.val
  | .coarse .coolant i => 0x150 + i.val
  | .coarse .filter i => 0x160 + i.val
  | .fine f => 0x180 + f.val
  | .summary n => 0x1E0 + n.val

/-- The offset of a telemetry slot (01, section 1.1). -/
def slotOffset (slot : Fin 32) : Nat := 0x020 + slot.val

/-- The offset of a setpoint word (04, section 4.5). -/
def setpointOffset : Setpoint → Nat
  | .exciter => 0x000
  | .trim m => 0x001 + m.val
  | .gate m => 0x009 + m.val

/-- The offset of a request word (R187). -/
def requestOffset : Request → Nat
  | .restart => 0x400
  | .stop => 0x401
  | .readmit => 0x402
  | .strikeClear => 0x403
  | .journalClear => 0x404
  | .ownershipClear => 0x405
  | .captureArm => 0x406
  | .captureStop => 0x407

/-- The offset of the ownership word (R159). -/
def ownershipOffset : Nat := 0x420

/-- The offset of S0 (R196). -/
def s0Offset : Nat := 0x430

/-- The offset of head window word w (R161). -/
def headWindowOffset (w : Fin 4) : Nat := 0x440 + w.val

/-- The offset of the capture start word (R177). -/
def captureStartOffset : Nat := 0x480

/-- The offset of the capture continue word (R177). -/
def captureContinueOffset : Nat := 0x481

/-! ### Areas -/

/-- What a region offset belongs to (10, section 10.2). -/
inductive Area where
  /-- Plain memory. -/
  | plain
  /-- A setpoint word the drive link's reads of which are substituted. -/
  | setpoint (word : Setpoint)
  /-- A telemetry slot. -/
  | telemetry (slot : Fin 32)
  /-- Word A of a two-word limit entry. -/
  | limitA (entry : TwoWordEntry)
  /-- Word B of a two-word limit entry. -/
  | limitB (entry : TwoWordEntry)
  /-- A one-word limit entry. -/
  | limitOne (entry : OneWordEntry)
  /-- A word of the effective view, by its offset in the view. -/
  | effectiveView (x : Fin 256)
  /-- A request word. -/
  | request (r : Request)
  /-- The ownership word. -/
  | ownership
  /-- Status word Sn. -/
  | status (n : Fin 16)
  /-- A head window word. -/
  | headWindow (w : Fin 4)
  /-- The capture start word. -/
  | captureStart
  /-- The capture continue word. -/
  | captureContinue
  /-- The capture status word. -/
  | captureStatus
deriving DecidableEq, Repr

/-- The entry at offset 0x100 + x of the limit table area, or plain memory (R131). -/
def limitArea (x : Fin 256) : Area :=
  if h : x.val < 0x3C then
    if x.val % 2 = 0 then .limitA (.channel ⟨x.val / 2, by omega⟩) else .limitB (.channel ⟨x.val / 2, by omega⟩)
  else if x.val < 0x40 then .plain
  else if x.val < 0x50 then .limitOne (.coarse .modules ⟨x.val % 16, by omega⟩)
  else if x.val < 0x60 then .limitOne (.coarse .coolant ⟨x.val % 16, by omega⟩)
  else if x.val < 0x70 then .limitOne (.coarse .filter ⟨x.val % 16, by omega⟩)
  else if x.val < 0x80 then .plain
  else if x.val < 0xC0 then .limitOne (.fine ⟨x.val % 64, by omega⟩)
  else if h : x.val < 0xDA then
    if x.val % 2 = 0 then .limitA (.general ⟨(x.val - 0xC0) / 2, by omega⟩)
    else .limitB (.general ⟨(x.val - 0xC0) / 2, by omega⟩)
  else if x.val < 0xE0 then .plain
  else .limitOne (.summary ⟨x.val % 32, by omega⟩)

/-- The request whose word stands at 0x400 + k (R187). -/
def requestAt (k : Fin 8) : Request :=
  match k with
  | 0 => .restart
  | 1 => .stop
  | 2 => .readmit
  | 3 => .strikeClear
  | 4 => .journalClear
  | 5 => .ownershipClear
  | 6 => .captureArm
  | 7 => .captureStop

/-- The area of a region offset (00, section 0.5; 10, section 10.2). -/
def areaOf (offset : Nat) : Area :=
  if offset = 0 then .setpoint .exciter
  else if h : 1 ≤ offset ∧ offset < 9 then .setpoint (.trim ⟨offset - 1, by omega⟩)
  else if h : 9 ≤ offset ∧ offset < 0x11 then .setpoint (.gate ⟨offset - 9, by omega⟩)
  else if offset < 0x20 then .plain
  else if h : 0x20 ≤ offset ∧ offset < 0x40 then .telemetry ⟨offset - 0x20, by omega⟩
  else if offset < 0x100 then .plain
  else if h : 0x100 ≤ offset ∧ offset < 0x200 then limitArea ⟨offset - 0x100, by omega⟩
  else if h : 0x200 ≤ offset ∧ offset < 0x300 then .effectiveView ⟨offset - 0x200, by omega⟩
  else if offset < 0x400 then .plain
  else if h : 0x400 ≤ offset ∧ offset < 0x408 then .request (requestAt ⟨offset - 0x400, by omega⟩)
  else if offset = 0x420 then .ownership
  else if h : 0x430 ≤ offset ∧ offset < 0x440 then .status ⟨offset - 0x430, by omega⟩
  else if h : 0x440 ≤ offset ∧ offset < 0x444 then .headWindow ⟨offset - 0x440, by omega⟩
  else if offset = 0x480 then .captureStart
  else if offset = 0x481 then .captureContinue
  else if offset = 0x482 then .captureStatus
  else .plain

/-! ### The access a command is -/

/-- The region offset of the access a command is; an event is no access, and ABSORBED_WRITE carries its address (log
entry 11). -/
def accessOffset : Instr → Option Nat
  | .frameHeaderWrite _ => some 0x020
  | .dataSlotWrite slot _ => some (slotOffset slot)
  | .frameEnd _ => some 0x03F
  | .limitWordAWrite _ e _ => some (wordAOffset e)
  | .limitWordBWrite _ e _ => some (wordBOffset e)
  | .limitOneWordWrite _ e _ => some (oneWordOffset e)
  | .dlExciterDriveRead _ => some 0x000
  | .dlTrimRead m _ => some (0x001 + m.val)
  | .dlGateRead m _ => some (0x009 + m.val)
  | .restart _ _ _ => some 0x400
  | .stop _ _ _ => some 0x401
  | .readmit _ _ _ => some 0x402
  | .strikeClear _ _ _ => some 0x403
  | .journalClear _ _ _ => some 0x404
  | .ownershipClear _ _ _ => some 0x405
  | .captureArm _ _ _ => some 0x406
  | .captureStop _ _ _ => some 0x407
  | .ownershipWordRead _ _ => some 0x420
  | .ownershipWordWrite _ _ _ => some 0x420
  | .headWindowWord0Read _ _ => some 0x440
  | .headWindowWordRead _ w _ => some (headWindowOffset w)
  | .cpS0Read _ => some 0x430
  | .captureStartAliasRead _ _ => some 0x480
  | .captureContinueAliasRead _ _ => some 0x481
  | .frameTimeoutExpiry | .evaluationCompletion | .holdOffExpiry | .arcLineAssert _ | .arcLineDeassert _ => none
  | .arcQualifyExpiry _ | .arcReleaseExpiry _ | .stuckTimerExpiry _ | .strikeEntryAgeing | .interlockOpen => none
  | .interlockClose | .settleExpiry | .quenchExpiry | .dischargeExpiry | .absorbedWrite _ _ _ _ => none
  | .resetAssert _ | .resetRelease _ | .millisecondCounterTick => none

/-- The area a command's row names for its access. -/
def accessArea : Instr → Option Area
  | .frameHeaderWrite _ => some (.telemetry 0)
  | .dataSlotWrite slot _ => some (.telemetry slot)
  | .frameEnd _ => some (.telemetry 31)
  | .limitWordAWrite _ e _ => some (.limitA e)
  | .limitWordBWrite _ e _ => some (.limitB e)
  | .limitOneWordWrite _ e _ => some (.limitOne e)
  | .dlExciterDriveRead _ => some (.setpoint .exciter)
  | .dlTrimRead m _ => some (.setpoint (.trim m))
  | .dlGateRead m _ => some (.setpoint (.gate m))
  | .restart _ _ _ => some (.request .restart)
  | .stop _ _ _ => some (.request .stop)
  | .readmit _ _ _ => some (.request .readmit)
  | .strikeClear _ _ _ => some (.request .strikeClear)
  | .journalClear _ _ _ => some (.request .journalClear)
  | .ownershipClear _ _ _ => some (.request .ownershipClear)
  | .captureArm _ _ _ => some (.request .captureArm)
  | .captureStop _ _ _ => some (.request .captureStop)
  | .ownershipWordRead _ _ => some .ownership
  | .ownershipWordWrite _ _ _ => some .ownership
  | .headWindowWord0Read _ _ => some (.headWindow 0)
  | .headWindowWordRead _ w _ => some (.headWindow w)
  | .cpS0Read _ => some (.status 0)
  | .captureStartAliasRead _ _ => some .captureStart
  | .captureContinueAliasRead _ _ => some .captureContinue
  | .frameTimeoutExpiry | .evaluationCompletion | .holdOffExpiry | .arcLineAssert _ | .arcLineDeassert _ => none
  | .arcQualifyExpiry _ | .arcReleaseExpiry _ | .stuckTimerExpiry _ | .strikeEntryAgeing | .interlockOpen => none
  | .interlockClose | .settleExpiry | .quenchExpiry | .dischargeExpiry | .absorbedWrite _ _ _ _ => none
  | .resetAssert _ | .resetRelease _ | .millisecondCounterTick => none

/-! ### Addresses -/

/-- The number the region stands at: the base held since release, or during reset the straps as they stand (R180). -/
def regionNumber (s : State) : Nat :=
  if s.pins.resetAsserted then s.pins.straps.toNat else s.bp.regionBase.toNat

/-- The address of a region offset (R180; log entry 11). -/
def regionAddress (s : State) (offset : Nat) : Address :=
  BitVec.ofNat 20 (regionNumber s * Config.regionWords + offset)

/-- The offset of an address, if it lies within the region (R180). -/
def regionOffset (s : State) (a : Address) : Option Nat :=
  if a.toNat / Config.regionWords = regionNumber s then some (a.toNat % Config.regionWords) else none

/-- All four byte lanes are enabled (R182). -/
def fullLanes (lanes : Lanes) : Bool := lanes == 0xF

end Sys2Proof.Machine
end

