-- ==== Sys2Proof/Machine/Flags.lean ====
section
/-! DEFINITION. Conditions and lines computed from the state: usable channels, the sensor, arc-held, stuck and interlock
conditions, the gated counts, the restart checks, and the output lines. -/

namespace Sys2Proof.Machine

/-- A channel is usable when it is present and not failed (R24). -/
def ChannelRecord.usable (r : ChannelRecord) : Bool := r.present && !r.failed

/-- A required channel that is unusable (R24, R25). -/
def ChannelRecord.missing (r : ChannelRecord) : Bool := r.required && !r.usable

/-- The sensor condition: a required global channel is unusable (R25). It is read from the channel records as they stand, so
it may change at an evaluation start, before the completion: the model's choice (log entry 25). -/
def sensorCondition (channels : Vector ChannelRecord 30) : Bool :=
  channels[outf].missing || channels[outr].missing || channels[clin].missing || channels[clout].missing ||
    channels[filt].missing || channels[flow].missing

/-- Cause SENSOR of module m: a required channel of the module is unusable (R25). -/
def sensorCause (channels : Vector ChannelRecord 30) (m : Fin 8) : Bool :=
  channels[fwdChannel m].missing || channels[rflChannel m].missing || channels[hskChannel m].missing

/-- Whether an evaluation is in flight (R71). -/
def State.inFlight (s : State) : Bool := s.cu.evaluation.isSome

/-- An input's filter state is HELD or RELEASING (R90). -/
def ArcInput.isHeld (i : ArcInput) : Bool := i.filter == .held || i.filter == .releasing

/-- The arc-held condition (R90). -/
def ArcMonitor.arcHeld (a : ArcMonitor) : Bool := a.inputs[0].isHeld || a.inputs[1].isHeld || a.inputs[2].isHeld

/-- The stuck condition (R90). -/
def ArcMonitor.stuckCondition (a : ArcMonitor) : Bool := a.inputs[0].stuck || a.inputs[1].stuck || a.inputs[2].stuck

/-- A module's cause set is empty (R60). -/
def Admission.noCause (a : Admission) : Bool := !a.hot && !a.mismatch && !a.sensor

/-- The gated count (R47). -/
def MismatchUnit.gatedCount (u : MismatchUnit) : Nat := u.admission.toList.countP fun a => a.gated

/-- The residual gated count: modules whose cause set holds HOT or SENSOR (R65). -/
def MismatchUnit.residualCount (u : MismatchUnit) : Nat := u.admission.toList.countP fun a => a.hot || a.sensor

/-- The interlock condition: true while the interlock line is open (R120). -/
def State.interlockCondition (s : State) : Bool := s.pins.interlockOpen

/-- The restart checks in their order; the kind of the first that fails (R122). The sensor condition is read as R25 states it,
also during an evaluation: the model's choice (log entry 25). -/
def restartCheck (s : State) : Option TripKind :=
  if s.td.telemetryLost then some .telemetryLoss
  else if sensorCondition s.td.channels then some .sensor
  else if s.interlockCondition then some .interlock
  else if s.am.stuckCondition then some .arcStuck
  else if s.du.thermal then some .thermal
  else if s.du.cooling then some .cooling
  else if s.lt.effective.general.gateLimit < s.mu.residualCount then some .modules
  else none

/-- A cause stands in the trip cause holder, as primary or secondary (R116). -/
def Sequencer.holds (q : Sequencer) (k : TripKind) : Bool := q.primary == some k || q.secondary.contains k

/-- A cause may be restarted automatically: its kind is one of three and its flag of G8 is set (R127). -/
def autoAllowed (g : General) : TripKind → Bool
  | .thermal => g.autoThermal
  | .cooling => g.autoCooling
  | .interlock => g.autoInterlock
  | .mismatch => false
  | .modules => false
  | .sensor => false
  | .arcLockout => false
  | .arcStuck => false
  | .telemetryLoss => false

/-- Every cause in the holder may be restarted automatically (R127). -/
def autoCauses (s : State) : Bool :=
  (s.sq.primary.toList ++ s.sq.secondary).all (autoAllowed s.lt.effective.general)

/-- The mute line: asserted unless the sequencer is in RUN and reset is not asserted (R108). -/
def State.muteLine (s : State) : Bool := s.pins.resetAsserted || s.sq.state != .run

/-- The PA supply enable line: deasserted in OFF and TRIPPED and during reset (R108). -/
def State.supplyEnable (s : State) : Bool :=
  !s.pins.resetAsserted && s.sq.state != .off && s.sq.state != .tripped

/-- The attention line (R164). -/
def State.attentionLine (s : State) : Bool := !s.pins.resetAsserted && s.fj.attention

end Sys2Proof.Machine
end

