-- ==== Sys2Proof/Machine/Memory.lean ====
section
/-! DEFINITION. The shared SRAM behind the part: bytes, words and byte lanes, in one canonical form. -/

namespace Sys2Proof.Machine

/-- The canonical form: byte addresses strictly rising, and no entry equal to what an unlisted byte reads as. -/
def Memory.wf (m : Memory) : Bool :=
  decide (m.Pairwise fun x y => x.1 < y.1) && m.all fun x => x.2 != Config.unwrittenByte

/-- The byte at a byte address. -/
def Memory.readByte : Memory → Nat → Byte
  | [], _ => Config.unwrittenByte
  | (a, b) :: rest, k => if a = k then b else Memory.readByte rest k

/-- Memory with one byte written; writing what an unlisted byte reads as removes the entry. -/
def Memory.writeByte : Memory → Nat → Byte → Memory
  | [], k, v => if v = Config.unwrittenByte then [] else [(k, v)]
  | (a, b) :: rest, k, v =>
    if k < a then
      if v = Config.unwrittenByte then (a, b) :: rest else (k, v) :: (a, b) :: rest
    else if k = a then
      if v = Config.unwrittenByte then rest else (k, v) :: rest
    else (a, b) :: Memory.writeByte rest k v

/-- The byte address of a lane of a word (log entry 1). -/
def laneAddress (a : Address) (lane : Nat) : Nat := 4 * a.toNat + lane

/-- The byte a word has in a lane: lane i carries bits 8i to 8i + 7 (log entry 1). -/
def laneByte (w : Word) (lane : Nat) : Byte := BitVec.ofNat 8 (w.toNat / 2 ^ (8 * lane))

/-- The word at a word address. -/
def Memory.readWord (m : Memory) (a : Address) : Word :=
  BitVec.ofNat 32 ((m.readByte (laneAddress a 0)).toNat + (m.readByte (laneAddress a 1)).toNat * 2 ^ 8 +
    (m.readByte (laneAddress a 2)).toNat * 2 ^ 16 + (m.readByte (laneAddress a 3)).toNat * 2 ^ 24)

/-- Memory with one lane of a word written if the lane is enabled. -/
def Memory.writeLane (m : Memory) (a : Address) (lanes : Lanes) (w : Word) (lane : Nat) : Memory :=
  if lanes.getLsbD lane then m.writeByte (laneAddress a lane) (laneByte w lane) else m

/-- Memory with the enabled lanes of a word written (R182). -/
def Memory.writeWord (m : Memory) (a : Address) (lanes : Lanes) (w : Word) : Memory :=
  (((m.writeLane a lanes w 0).writeLane a lanes w 1).writeLane a lanes w 2).writeLane a lanes w 3

end Sys2Proof.Machine
end

