-- ==== Sys2Proof/Machine/Ops.lean ====
section
/-! DEFINITION. The named updates of the state, and what every access shares: replies, forwarding, misuse and S4. -/

namespace Sys2Proof.Machine

/-! ### One update for each block -/

/-- The state with the Telemetry Decoder replaced. -/
def State.setTd (s : State) (x : TelemetryDecoder) : State := { s with td := x }

/-- The state with the Limit Table replaced. -/
def State.setLt (s : State) (x : LimitTable) : State := { s with lt := x }

/-- The state with the Derating Unit replaced. -/
def State.setDu (s : State) (x : DeratingUnit) : State := { s with du := x }

/-- The state with the Mismatch Unit replaced. -/
def State.setMu (s : State) (x : MismatchUnit) : State := { s with mu := x }

/-- The state with the Ceiling Unit replaced. -/
def State.setCu (s : State) (x : CeilingUnit) : State := { s with cu := x }

/-- The state with the Arc Monitor replaced. -/
def State.setAm (s : State) (x : ArcMonitor) : State := { s with am := x }

/-- The state with the sequencer replaced. -/
def State.setSq (s : State) (x : Sequencer) : State := { s with sq := x }

/-- The state with the Fault Journal replaced. -/
def State.setFj (s : State) (x : FaultJournal) : State := { s with fj := x }

/-- The state with the Capture Unit replaced. -/
def State.setCap (s : State) (x : CaptureUnit) : State := { s with cap := x }

/-- The state with the Bus Passage replaced. -/
def State.setBp (s : State) (x : BusPassage) : State := { s with bp := x }

/-- The state with the input lines levels replaced. -/
def State.setPins (s : State) (x : Pins) : State := { s with pins := x }

/-- The state with the shared SRAM replaced. -/
def State.setMem (s : State) (x : Memory) : State := { s with mem := x }

/-- The state with one more reply given (R190). -/
def State.reply (s : State) (m : Master) (transaction : BitVec 4) (data : Word) : State :=
  { s with replies := s.replies ++ [{ master := m, transaction := transaction, data := data }] }

/-! ### What accesses share -/

/-- A write forwarded to memory: the enabled lanes of the word are stored (R181, R182). -/
def State.forwardWrite (s : State) (a : Address) (lanes : Lanes) (w : Word) : State :=
  s.setMem (s.mem.writeWord a lanes w)

/-- A read forwarded to memory: the reply is the word memory holds (R181). It is answered within the step that takes the read:
the model's choice of memory's latency (log entry 28). -/
def State.forwardRead (s : State) (m : Master) (transaction : BitVec 4) (a : Address) : State :=
  s.reply m transaction (s.mem.readWord a)

/-- One misuse at an offset (R189). -/
def State.misuse (s : State) (offset : Nat) : State :=
  s.setBp { s.bp with misuseCount := countUp 65535 s.bp.misuseCount, lastMisuse := BitVec.ofNat 12 offset }

/-- S4 written with a request, its master and its result (R187). -/
def State.setS4 (s : State) (r : Request) (m : Master) (res : RequestResult) : State :=
  s.setBp { s.bp with lastRequest := some { request := r, master := m, result := res } }

end Sys2Proof.Machine
end

