-- ==== Sys2Proof/Machine/DriveLink.lean ====
section
/-! DEFINITION. Substituted drive-link reads: their replies, holding, release and expiry (R79 to R88). -/

namespace Sys2Proof.Machine

/-- The reply to a substituted read, from memory, the ceilings and the admission states as they stand (R79 to R82). -/
def substitutedWord (w : Setpoint) (s : State) : Word :=
  let m := s.mem.readWord (regionAddress s (setpointOffset w))
  match w with
  | .exciter => withLowHalf m (min (field m 0 16) (min Config.fullDrive s.cu.e))
  | .trim k => withLowHalf m (min (field m 0 16) (min Config.fullDrive s.cu.em[k]))
  | .gate k => if s.mu.admission[k].gated then 0 else m

/-- A substituted read answered now (R82). -/
def answerRead (w : Setpoint) (transaction : BitVec 4) (s : State) : State :=
  s.reply .dl transaction (substitutedWord w s)

/-- A drive-link read is held: an evaluation in flight, HOLD_MAX above 0, and fewer than four reads held (R83). -/
def holdsRead (s : State) : Bool :=
  s.inFlight && decide (0 < s.lt.effective.general.holdMax) && decide (s.bp.heldReads.length < Config.heldReadCapacity)

/-- A drive-link read of a substituted word arrives: answered 0 during reset, held, or answered at once (R83, R88). -/
def driveLinkRead (w : Setpoint) (transaction : BitVec 4) (s : State) : State :=
  if s.pins.resetAsserted then s.reply .dl transaction 0
  else if holdsRead s then
    s.setBp { s.bp with
      heldReads := s.bp.heldReads ++ [{ word := w, transaction := transaction, holdMax := s.lt.effective.general.holdMax }] }
  else answerRead w transaction s

/-- Every held read answered in order of arrival, and the queue emptied (R85). -/
def releaseReads (s : State) : State :=
  let t := s.bp.heldReads.foldl (fun u h => answerRead h.word h.transaction u) s
  t.setBp { t.bp with heldReads := [] }

/-- DL_EXCITER_DRIVE_READ (R79). -/
def execDlExciterDriveRead (transaction : BitVec 4) (s : State) : Host.Outcome State Fault Refusal :=
  .next (driveLinkRead .exciter transaction s)

/-- DL_TRIM_READ (R80). -/
def execDlTrimRead (m : Fin 8) (transaction : BitVec 4) (s : State) : Host.Outcome State Fault Refusal :=
  .next (driveLinkRead (.trim m) transaction s)

/-- DL_GATE_READ (R81). -/
def execDlGateRead (m : Fin 8) (transaction : BitVec 4) (s : State) : Host.Outcome State Fault Refusal :=
  .next (driveLinkRead (.gate m) transaction s)

/-- HOLD_OFF_EXPIRY (R86): the oldest held read, the first to reach its expiry moment (R84), is answered with the values
as they stand; the expiry count rises and the expiry flag sets. -/
def execHoldOffExpiry (s : State) : Host.Outcome State Fault Refusal :=
  match s.bp.heldReads with
  | [] => .next s
  | h :: rest =>
    let t := answerRead h.word h.transaction s
    .next (t.setBp { t.bp with
      heldReads := rest, expiryCount := countUp 65535 s.bp.expiryCount, expiryFlag := true })

end Sys2Proof.Machine
end

