-- ==== Sys2Proof/Machine/Capture.lean ====
section
/-! DEFINITION. The Capture Unit: arming, triggers, appending and readout (Chapter 9). -/

namespace Sys2Proof.Machine

/-- A trigger is taken: the pre-trigger count is set, and the state becomes FROZEN, or POST with P to go (R175). -/
def CaptureUnit.takeTrigger (c : CaptureUnit) : CaptureUnit :=
  if c.postCount = 0 then { c with preTrigger := c.ring.length, state := .frozen }
  else { c with preTrigger := c.ring.length, state := .post, postRemaining := c.postCount }

/-- The journal's notice that a record was added: in ARMED, SINGLE, a kind in the trigger mask triggers (R173). -/
def CaptureUnit.notify (c : CaptureUnit) (mask : Word) (kind : RecordKind) : CaptureUnit :=
  if c.state = .armed ∧ c.mode = .single ∧ inMask mask kind = true then c.takeTrigger else c

/-- The channels of a pattern in ascending index (R171). -/
def patternChannels (p : BitVec 30) : List (Fin 30) := (List.finRange 30).filter fun c => p.getLsbD c.val

/-- Arming: the ring emptied, the cursors zeroed, the pattern latched, the sizes and the post count set, the mode set and
the state ARMED (R170). -/
def CaptureUnit.arm (pattern : BitVec 30) (requested : Nat) (mode : CaptureMode) : CaptureUnit :=
  let k := (patternChannels pattern).length
  let r := 1 + (k + 1) / 2
  let n := Config.captureWords / r
  { state := .armed, mode := mode, pattern := pattern, recordSize := r, capacity := n,
    postCount := min requested (n - 1), postRemaining := 0, ring := [], preTrigger := 0, cursorCp := 0, cursorSp := 0 }

/-- The frame record of a completion, its mark clear (R171). -/
def frameRecord (pattern : BitVec 30) (seq : BitVec 8) (st : SeqState) (e : Nat) (channels : Vector ChannelRecord 30) :
    FrameRecord where
  seq := seq
  seqState := st
  mark := false
  e := e
  values := (patternChannels pattern).map fun c => channels[c].value

/-- The ring with a record joined at the tail, the oldest removed when it is full (R172). -/
def CaptureUnit.push (c : CaptureUnit) (r : FrameRecord) : List FrameRecord :=
  if c.ring.length < c.capacity then c.ring ++ [r] else c.ring.drop 1 ++ [r]

/-- A completion's frame record is appended in ARMED and in POST (R172). In POST the first record after the trigger
carries the mark, an overwritten record was from before the trigger, and the count to go falls (R176). -/
def CaptureUnit.append (c : CaptureUnit) (r : FrameRecord) : CaptureUnit :=
  match c.state with
  | .idle => c
  | .frozen => c
  | .armed => { c with ring := c.push r }
  | .post =>
    { c with
      ring := c.push { r with mark := c.postRemaining == c.postCount }
      preTrigger := if c.ring.length < c.capacity then c.preTrigger else c.preTrigger - 1
      postRemaining := c.postRemaining - 1
      state := if c.postRemaining - 1 = 0 then .frozen else .post }

/-! ### Readout -/

/-- The header word of a frame record (R196). -/
def FrameRecord.header (f : FrameRecord) : Word :=
  pack [(f.seq.toNat, 0, 8), (seqStateCode f.seqState, 8, 3), (f.mark.toNat, 11, 1), (f.e, 12, 12)]

/-- Channel values two to a word, the lower-indexed in the lower half (R171). -/
def valueWords : List Int → List Word
  | [] => []
  | [a] => [pack [(signed16 a, 0, 16)]]
  | a :: b :: rest => pack [(signed16 a, 0, 16), (signed16 b, 16, 16)] :: valueWords rest

/-- The r words of a frame record (R171). -/
def FrameRecord.words (f : FrameRecord) : List Word := f.header :: valueWords f.values

/-- The frozen capture read as one run of words (R177). -/
def CaptureUnit.words (c : CaptureUnit) : List Word := c.ring.flatMap FrameRecord.words

/-- The end marker (R177). -/
def endMarker : Word := 0xFFFFFFFF

/-- The not-frozen reply (R177). -/
def notFrozen : Word := 0xFFFFFFFE

/-- A master's cursor; the scanner and the drive link have none (R177). -/
def CaptureUnit.cursor (c : CaptureUnit) : Master → Option Nat
  | .cp => some c.cursorCp
  | .sp => some c.cursorSp
  | .ts => none
  | .dl => none

/-- The unit with a master's cursor moved. -/
def CaptureUnit.setCursor (c : CaptureUnit) (m : Master) (n : Nat) : CaptureUnit :=
  match m with
  | .cp => { c with cursorCp := n }
  | .sp => { c with cursorSp := n }
  | .ts => c
  | .dl => c

/-- A read of the capture start word: the reply and the unit after (R177). -/
def CaptureUnit.readStart (c : CaptureUnit) (m : Master) : Word × CaptureUnit :=
  match c.cursor m, c.state with
  | some _, .frozen =>
    match c.words with
    | [] => (endMarker, c.setCursor m 0)
    | w :: _ => (w, c.setCursor m 1)
  | _, _ => (notFrozen, c)

/-- A read of the capture continue word: the reply and the unit after (R177). -/
def CaptureUnit.readContinue (c : CaptureUnit) (m : Master) : Word × CaptureUnit :=
  match c.cursor m, c.state with
  | some k, .frozen =>
    match c.words[k]? with
    | none => (endMarker, c)
    | some w => (w, c.setCursor m (k + 1))
  | _, _ => (notFrozen, c)

/-- The capture status word (R178, R196). -/
def captureStatusWord (c : CaptureUnit) : Word :=
  pack [(captureStateCode c.state, 0, 2), (captureModeCode c.mode, 2, 1), (c.recordSize, 3, 5), (c.ring.length, 8, 12),
    (c.preTrigger, 20, 12)]

/-- CAPTURE_START_ALIAS_READ (R177). During reset the read is forwarded (R191). -/
def execCaptureStartAliasRead (master : Master) (transaction : BitVec 4) (s : State) :
    Host.Outcome State Fault Refusal :=
  if s.pins.resetAsserted then .next (s.forwardRead master transaction (regionAddress s captureStartOffset))
  else .next ((s.setCap (s.cap.readStart master).2).reply master transaction (s.cap.readStart master).1)

/-- CAPTURE_CONTINUE_ALIAS_READ (R177). During reset the read is forwarded (R191). -/
def execCaptureContinueAliasRead (master : Master) (transaction : BitVec 4) (s : State) :
    Host.Outcome State Fault Refusal :=
  if s.pins.resetAsserted then .next (s.forwardRead master transaction (regionAddress s captureContinueOffset))
  else .next ((s.setCap (s.cap.readContinue master).2).reply master transaction (s.cap.readContinue master).1)

end Sys2Proof.Machine
end

