-- ==== Sys2Proof/Machine/Journal.lean ====
section
/-! DEFINITION. The Fault Journal: adding, coalescing and closing records, and its reads (Chapter 8). -/

namespace Sys2Proof.Machine

/-! ### Removals -/

/-- The read latches after the record numbered q left the list: the held marks of its copies clear (R161). -/
def FaultJournal.unmark (j : FaultJournal) (q : BitVec 16) : Vector (Option ReadLatch) 4 :=
  Vector.ofFn fun i => j.readLatches[i].map fun l => { l with held := l.held && l.copy.seq != q }

/-- A record given up by the journal: the list without it, the overflow count increased, its marks cleared (R153, R155). -/
def FaultJournal.giveUp (j : FaultJournal) (r : Record) (rest : List Record) : FaultJournal :=
  { j with records := rest, overflow := countUp 65535 j.overflow, readLatches := j.unmark r.seq }

/-- Retirement: an oldest record that carries the number about to be assigned is given up (R153 step 1). -/
def FaultJournal.retire (j : FaultJournal) : FaultJournal :=
  match j.records with
  | [] => j
  | r :: rest => if r.seq = j.nextSeq then j.giveUp r rest else j

/-- Making room: a full journal gives up its oldest advisory record, or else its oldest record (R155). -/
def FaultJournal.makeRoom (j : FaultJournal) : FaultJournal :=
  if j.records.length < Config.journalCapacity then j
  else
    match j.records.find? fun r => isAdvisory r.kind with
    | some r => j.giveUp r (j.records.eraseP fun r => isAdvisory r.kind)
    | none =>
      match j.records with
      | [] => j
      | r :: rest => j.giveUp r rest

/-! ### Open references -/

/-- The open reference of a condition: FOLDBACK, or DERATE of a channel (R157). -/
def FaultJournal.openRef (j : FaultJournal) (kind : RecordKind) (source : Nat) : Option OpenRef :=
  if kind = .foldback then j.foldbackRef
  else if h : kind = .derate ∧ 18 ≤ source ∧ source < 29 then j.derateRefs[source - 18]
  else none

/-- The journal with a condition's open reference replaced; other kinds have none. -/
def FaultJournal.setRef (j : FaultJournal) (kind : RecordKind) (source : Nat) (x : Option OpenRef) : FaultJournal :=
  if kind = .foldback then { j with foldbackRef := x }
  else if kind = .derate then
    { j with derateRefs := Vector.ofFn fun k => if 18 + k.val = source then x else j.derateRefs[k] }
  else j

/-! ### Adding -/

/-- Numbering and joining: the record takes the next number and joins at the tail with repeat count 1 (R153 steps 3, 4). -/
def FaultJournal.join (j : FaultJournal) (r : Record) : FaultJournal :=
  { j with records := j.records ++ [{ r with seq := j.nextSeq, repeats := 1 }], nextSeq := j.nextSeq + 1 }

/-- The open reference filled at the addition of an open condition record (R153 step 5, R157). -/
def FaultJournal.fillRef (j : FaultJournal) (r : Record) (q : BitVec 16) : FaultJournal :=
  if r.openFlag then j.setRef r.kind r.source (some { seq := q, timestamp := r.timestamp }) else j

/-- Attention pending set if the kind is in the attention mask (R164). -/
def FaultJournal.attend (j : FaultJournal) (mask : Word) (kind : RecordKind) : FaultJournal :=
  { j with attention := j.attention || inMask mask kind }

/-- The journal after a record was added (R153). -/
def FaultJournal.add (j : FaultJournal) (mask : Word) (r : Record) : FaultJournal :=
  ((j.retire.makeRoom.join r).fillRef r j.nextSeq).attend mask r.kind

/-- A record is added, and the Capture Unit is told of it (R153). -/
def addRecord (r : Record) (s : State) : State :=
  (s.setFj (s.fj.add s.lt.effective.general.attentionMask r)).setCap
    (s.cap.notify s.lt.effective.general.triggerMask r.kind)

/-- A record of this moment, every flag clear and extra word 0 (R151). -/
def newRecord (s : State) (kind : RecordKind) (source : Nat) (value : Int) : Record where
  seq := 0
  kind := kind
  source := source
  timestamp := s.msCounter
  value := value
  repeats := 1
  seqState := s.sq.state
  openFlag := false
  closedFlag := false
  automatic := false
  noRf := false
  extra := 0

/-! ### Coalescing and condition records -/

/-- The newest record after an arriving one coalesced with it (R156). -/
def coalesced (newest r : Record) : Record :=
  { newest with
    repeats := countUp 255 newest.repeats
    value := if newest.kind = .telemetryGap then min 32767 (newest.value + r.value) else newest.value }

/-- A TELEMETRY_GAP or FRAME_OVERRUN record arrives: it coalesces with a newest record of its kind and source, or is
added (R156). -/
def streamRecord (r : Record) (s : State) : State :=
  match s.fj.records.getLast? with
  | none => addRecord r s
  | some newest =>
    if newest.kind = r.kind ∧ newest.source = r.source then
      s.setFj { s.fj with records := s.fj.records.dropLast ++ [coalesced newest r] }
    else addRecord r s

/-- A held record is the one an open reference names (R158). -/
def isRefRecord (ref : OpenRef) (kind : RecordKind) (source : Nat) (r : Record) : Bool :=
  r.seq == ref.seq && r.kind == kind && r.source == source

/-- The record of an open: the open flag set (R157). -/
def openRecord (kind : RecordKind) (source : Nat) (value : Int) (s : State) : State :=
  addRecord { newRecord s kind source value with openFlag := true } s

/-- A close arrives: the open record it names is closed in place, or a closed record is added; the open reference is
emptied in every case (R158). -/
def closeRecord (kind : RecordKind) (source : Nat) (value : Int) (s : State) : State :=
  let r := { newRecord s kind source value with closedFlag := true }
  match s.fj.openRef kind source with
  | none => addRecord r s
  | some ref =>
    let duration := s.msCounter - ref.timestamp
    let j := s.fj.setRef kind source none
    if j.records.any (isRefRecord ref kind source) then
      s.setFj { j with
        records := j.records.map fun x =>
          if isRefRecord ref kind source x then { x with closedFlag := true, extra := duration } else x }
    else addRecord { r with extra := duration } (s.setFj j)

/-! ### Ownership and the head window -/

/-- A master is the owner (R160). -/
def isOwner : Owner → Master → Bool
  | .cp, .cp => true
  | .sp, .sp => true
  | _, _ => false

/-- The owner a master becomes by reading the free ownership word; the scanner and the drive link never do (R159). -/
def ownerFor : Master → Option Owner
  | .cp => some .cp
  | .sp => some .sp
  | .ts => none
  | .dl => none

/-- The busy reply of the ownership word (R159, R196). -/
def busyReply : Owner → Word
  | .free => pack [(1, 0, 1)]
  | .cp => pack [(1, 0, 1), (1, 1, 1), (masterTag .cp, 4, 2)]
  | .sp => pack [(1, 0, 1), (1, 1, 1), (masterTag .sp, 4, 2)]

/-- A master's read latch replaced. -/
def FaultJournal.setLatch (j : FaultJournal) (m : Master) (l : Option ReadLatch) : FaultJournal :=
  { j with readLatches := j.readLatches.set (masterIndex m) l }

/-- A read of the ownership word: the reply and the journal after (R159). -/
def FaultJournal.readOwnership (j : FaultJournal) (m : Master) : Word × FaultJournal :=
  match j.owner, ownerFor m with
  | .free, some o => (0, { j with owner := o }.setLatch m none)
  | o, _ => (busyReply o, j)

/-- The NONE record an empty journal presents (R161). -/
def noneRecord (next : BitVec 16) : Record where
  seq := next
  kind := .none
  source := 0
  timestamp := 0
  value := 0
  repeats := 0
  seqState := .off
  openFlag := false
  closedFlag := false
  automatic := false
  noRf := false
  extra := 0

/-- What a latch takes: a copy of the oldest held record, or the NONE record (R161). -/
def FaultJournal.latchHead (j : FaultJournal) : ReadLatch :=
  match j.records with
  | [] => { copy := noneRecord j.nextSeq, held := false }
  | r :: _ => { copy := r, held := true }

/-- Word w of a record (R196). -/
def recordWord (r : Record) (w : Fin 4) : Word :=
  match w with
  | 0 => pack [(r.seq.toNat, 0, 16), (kindCode r.kind, 16, 5), (r.source, 24, 5)]
  | 1 => r.timestamp
  | 2 => pack [(signed16 r.value, 0, 16), (r.repeats, 16, 8), (seqStateCode r.seqState, 24, 3), (r.openFlag.toNat, 27, 1),
      (r.closedFlag.toNat, 28, 1), (r.automatic.toNat, 29, 1), (r.noRf.toNat, 30, 1)]
  | 3 => r.extra

/-- The latch a window read answers from: a fresh one for word 0 or when the latch is empty (R161). -/
def FaultJournal.windowLatch (j : FaultJournal) (m : Master) (w : Fin 4) : ReadLatch :=
  match j.readLatches[masterIndex m] with
  | none => j.latchHead
  | some l => if w = 0 then j.latchHead else l

/-- The record numbered q removed, its marks cleared (R162). -/
def FaultJournal.remove (j : FaultJournal) (q : BitVec 16) : FaultJournal :=
  { j with records := j.records.filter fun r => r.seq != q, readLatches := j.unmark q }

/-- A read of head window word w: the reply and the journal after. A word 3 read by the owner removes the latched record
if the held mark is set (R161, R162). -/
def FaultJournal.readWindow (j : FaultJournal) (m : Master) (w : Fin 4) : Word × FaultJournal :=
  let l := j.windowLatch m w
  let j' := j.setLatch m (some l)
  (recordWord l.copy w, if w = 3 ∧ isOwner j.owner m = true ∧ l.held = true then j'.remove l.copy.seq else j')

/-- Every record removed and every held mark cleared (R163). -/
def FaultJournal.clear (j : FaultJournal) : FaultJournal :=
  { j with
    records := []
    readLatches := Vector.ofFn fun i => j.readLatches[i].map fun l => { l with held := false } }

/-- OWNERSHIP_WORD_READ (R159). During reset the read is forwarded (R191). -/
def execOwnershipWordRead (master : Master) (transaction : BitVec 4) (s : State) : Host.Outcome State Fault Refusal :=
  if s.pins.resetAsserted then .next (s.forwardRead master transaction (regionAddress s ownershipOffset))
  else .next ((s.setFj (s.fj.readOwnership master).2).reply master transaction (s.fj.readOwnership master).1)

/-- A read of a head window word by a master (R161, R162, R191). -/
def windowRead (master : Master) (word : Fin 4) (transaction : BitVec 4) (s : State) : State :=
  if s.pins.resetAsserted then s.forwardRead master transaction (regionAddress s (headWindowOffset word))
  else (s.setFj (s.fj.readWindow master word).2).reply master transaction (s.fj.readWindow master word).1

/-- HEAD_WINDOW_WORD0_READ (R161). -/
def execHeadWindowWord0Read (master : Master) (transaction : BitVec 4) (s : State) : Host.Outcome State Fault Refusal :=
  .next (windowRead master 0 transaction s)

/-- HEAD_WINDOW_WORD_READ (R161, R162). -/
def execHeadWindowWordRead (master : Master) (word : Fin 4) (transaction : BitVec 4) (s : State) :
    Host.Outcome State Fault Refusal :=
  .next (windowRead master word transaction s)

/-- A write to the ownership word: forwarded during reset; a full-lane write by the owner releases ownership, its read
latch kept; any other is one misuse (R160, R182, R186, R191). -/
def ownershipWrite (master : Master) (lanes : Lanes) (value : Word) (s : State) : State :=
  if s.pins.resetAsserted then s.forwardWrite (regionAddress s ownershipOffset) lanes value
  else if fullLanes lanes && isOwner s.fj.owner master then s.setFj { s.fj with owner := .free }
  else s.misuse ownershipOffset

/-- OWNERSHIP_WORD_WRITE (R160). -/
def execOwnershipWordWrite (master : Master) (lanes : Lanes) (value : Word) (s : State) :
    Host.Outcome State Fault Refusal :=
  .next (ownershipWrite master lanes value s)

end Sys2Proof.Machine
end

