-- ==== Sys2Proof/Machine/Sequencer.lean ====
section
/-! DEFINITION. The Sequencer: entering states, trip demands, restarts, its timers and the interlock (Chapter 6), with
the Mismatch Unit's part of a restart (R65). -/

namespace Sys2Proof.Machine

/-! ### Entering a state -/

/-- E and every E_m set to 0 (R77). -/
def CeilingUnit.zero (u : CeilingUnit) : CeilingUnit := { u with e := 0, em := Vector.replicate 8 0 }

/-- A timer's expiry value: the counter now, a length in milliseconds later (R109). -/
def expiryAfter (now : Word) (ms : Nat) : Word := now + BitVec.ofNat 32 ms

/-- The sequencer after the entry of a state: the timer of that state started and the others stopped, the waiting flag
clear, the destination held in DISCHARGE alone (R107, R109). The holder stands. -/
def Sequencer.enter (q : Sequencer) (g : General) (now : Word) (st : SeqState) (dest : Destination) : Sequencer :=
  { q with
    state := st
    destination := if st = .discharge then dest else .empty
    settleTimer := if st = .settle then some (expiryAfter now g.settle) else none
    quenchTimer := if st = .mute then some (expiryAfter now g.quench) else none
    dischargeTimer := if st = .discharge then some (expiryAfter now g.discharge) else none
    waiting := false }

/-- The entry of a state, which zeroes the enforced ceilings (R77). -/
def enterState (st : SeqState) (dest : Destination) (s : State) : State :=
  (s.setSq (s.sq.enter s.lt.effective.general s.msCounter st dest)).setCu s.cu.zero

/-! ### Trip demands -/

/-- A demand that meets this sequencer sets the primary cause: SETTLE, RUN, MUTE, or DISCHARGE toward OFF (R117). -/
def Sequencer.takesPrimary (q : Sequencer) : Bool :=
  match q.state with
  | .settle => true
  | .run => true
  | .mute => true
  | .discharge => q.destination != .tripped
  | .off => false
  | .tripped => false

/-- The holder with a kind as its primary cause and no secondary one (R116). -/
def Sequencer.setPrimary (q : Sequencer) (k : TripKind) : Sequencer := { q with primary := some k, secondary := [] }

/-- The holder with a kind appended as a secondary cause if it is new and there is room (R116). -/
def Sequencer.addSecondary (q : Sequencer) (k : TripKind) : Sequencer :=
  if q.holds k = false ∧ q.secondary.length < Config.secondaryCapacity then { q with secondary := q.secondary ++ [k] }
  else q

/-- A trip demand's effect on the sequencer and the ceilings, before any record (R117). -/
def enterDemand (s : State) (k : TripKind) : State :=
  match s.sq.state with
  | .settle => enterState .discharge .tripped (s.setSq (s.sq.setPrimary k))
  | .run => enterState .discharge .tripped (s.setSq (s.sq.setPrimary k))
  | .mute => enterState .discharge .tripped (s.setSq (s.sq.setPrimary k))
  | .discharge =>
    if s.sq.destination = .tripped then s.setSq (s.sq.addSecondary k)
    else s.setSq { s.sq.setPrimary k with destination := .tripped }
  | .tripped => s.setSq (s.sq.addSecondary k)
  | .off => s

/-- The TRIP record of a primary cause (R119): the state the demand found, and the number of secondary causes entered in
the same event. -/
def tripRecord (s : State) (k : TripKind) (found : SeqState) : Record :=
  { newRecord s (.trip k) 0 s.sq.secondary.length with seqState := found }

/-- The demands of one event, entered in order; the TRIP record follows once all of them are entered (R118, R119). -/
def tripDemands (ks : List TripKind) (s : State) : State :=
  let t := ks.foldl enterDemand s
  match ks with
  | [] => s
  | k :: _ => if s.sq.takesPrimary then addRecord (tripRecord t k s.sq.state) t else t

/-- One trip demand (R117). -/
def tripDemand (k : TripKind) (s : State) : State := tripDemands [k] s

/-! ### Restart -/

/-- A module at an accepted restart: MISMATCH removed, and ADMITTED if its cause set is then empty (R65). -/
def Admission.restarted (a : Admission) : Admission :=
  { a with mismatch := false, gated := a.gated && (a.hot || a.sensor) }

/-- The Mismatch Unit after a restart (R65). -/
def MismatchUnit.restarted (u : MismatchUnit) : MismatchUnit where
  v := Config.fullDrive
  foldbackOpen := false
  outputCounter := 0
  moduleCounters := Vector.replicate 8 0
  admission := Vector.ofFn fun m => u.admission[m].restarted

/-- A MODULE_READMITTED record (R66). -/
def readmittedRecord (s : State) (m : Fin 8) (automatic : Bool) : Record :=
  { newRecord s .moduleReadmitted m.val 0 with automatic := automatic }

/-- The modules a restart readmits, in ascending number (R65). -/
def MismatchUnit.readmittedByRestart (u : MismatchUnit) : List (Fin 8) :=
  (List.finRange 8).filter fun m => u.admission[m].gated && !u.admission[m].restarted.gated

/-- The FOLDBACK close of a restart, if one is open (R65). -/
def closeFoldback (s : State) : State :=
  if s.mu.foldbackOpen then closeRecord .foldback 0 Config.fullDrive s else s

/-- The Mismatch Unit's part of a restart, with its records: the FOLDBACK close, then MODULE_READMITTED (R65, R66). -/
def restartMismatch (automatic : Bool) (s : State) : State :=
  s.mu.readmittedByRestart.foldl (fun t m => addRecord (readmittedRecord t m automatic) t)
    ((closeFoldback s).setMu s.mu.restarted)

/-- The RESTART record (R124). -/
def restartRecord (s : State) (cleared : Option TripKind) (automatic : Bool) (tag : Nat) : Record :=
  { newRecord s .restart 0 (causeCode cleared) with automatic := automatic, extra := BitVec.ofNat 32 tag }

/-- The holder emptied, and with ARC_LOCKOUT in it the strike list too (R123). -/
def clearCauses (s : State) : State :=
  (s.setSq { s.sq with primary := none, secondary := [] }).setAm
    { s.am with strikes := if s.sq.holds .arcLockout then [] else s.am.strikes }

/-- The causes cleared and the Mismatch Unit restarted (R123). -/
def prepareRestart (automatic : Bool) (s : State) : State := restartMismatch automatic (clearCauses s)

/-- An accepted restart, performed in the order of R123. -/
def performRestart (automatic : Bool) (tag : Nat) (s : State) : State :=
  enterState .settle .empty
    (addRecord (restartRecord (prepareRestart automatic s) s.sq.primary automatic tag) (prepareRestart automatic s))

/-- The auto-restart check, made in TRIPPED alone; when it passes the restart is performed (R127, R128). -/
def autoRestart (s : State) : State :=
  if s.sq.state = .tripped ∧ autoCauses s = true ∧ restartCheck s = none then performRestart true 0 s else s

/-! ### Arc signals -/

/-- The STRIKE signal: RUN enters MUTE; SETTLE and MUTE restart their timer and clear the waiting flag (R110, R112, R113). -/
def strikeSignal (s : State) : State :=
  match s.sq.state with
  | .run => enterState .mute .empty s
  | .mute =>
    s.setSq { s.sq with
      quenchTimer := some (expiryAfter s.msCounter s.lt.effective.general.quench), waiting := false }
  | .settle =>
    s.setSq { s.sq with
      settleTimer := some (expiryAfter s.msCounter s.lt.effective.general.settle), waiting := false }
  | .off => s
  | .discharge => s
  | .tripped => s

/-- The arc clear signal: SETTLE or MUTE with the waiting flag set enters RUN (R111, R113). That a waiting SETTLE takes it,
against the last sentence of R92, is the model's choice (log entry 26). -/
def arcClear (s : State) : State :=
  match s.sq.state, s.sq.waiting with
  | .settle, true => enterState .run .empty s
  | .mute, true => enterState .run .empty s
  | _, _ => s

/-! ### Commands -/

/-- A timer is running and its expiry value is reached (R109; log entry 5). -/
def timerDue (now : Word) : Option Word → Bool
  | none => false
  | some t => reached now t

/-- SETTLE_EXPIRY (R111): RUN with no arc held, else the waiting flag. -/
def execSettleExpiry (s : State) : Host.Outcome State Fault Refusal :=
  if s.sq.state = .settle ∧ timerDue s.msCounter s.sq.settleTimer = true then
    if s.am.arcHeld then .next (s.setSq { s.sq with settleTimer := none, waiting := true })
    else .next (enterState .run .empty s)
  else .next s

/-- QUENCH_EXPIRY (R113): RUN with no arc held, else the waiting flag. -/
def execQuenchExpiry (s : State) : Host.Outcome State Fault Refusal :=
  if s.sq.state = .mute ∧ timerDue s.msCounter s.sq.quenchTimer = true then
    if s.am.arcHeld then .next (s.setSq { s.sq with quenchTimer := none, waiting := true })
    else .next (enterState .run .empty s)
  else .next s

/-- The state a destination names. -/
def destinationState : Destination → SeqState
  | .tripped => .tripped
  | .off => .off
  | .empty => .off

/-- DISCHARGE_EXPIRY (R114): the destination is entered. -/
def execDischargeExpiry (s : State) : Host.Outcome State Fault Refusal :=
  if s.sq.state = .discharge ∧ timerDue s.msCounter s.sq.dischargeTimer = true then
    .next (enterState (destinationState s.sq.destination) .empty s)
  else .next s

/-- INTERLOCK_OPEN (R120): an INTERLOCK demand, except during reset; a line already open does not change (log entry 17). -/
def execInterlockOpen (s : State) : Host.Outcome State Fault Refusal :=
  if s.pins.interlockOpen then .next s
  else
    let t := s.setPins { s.pins with interlockOpen := true }
    if s.pins.resetAsserted then .next t else .next (tripDemand .interlock t)

/-- INTERLOCK_CLOSE (R120): the auto-restart check, except during reset; a line already closed does not change. -/
def execInterlockClose (s : State) : Host.Outcome State Fault Refusal :=
  if s.pins.interlockOpen then
    let t := s.setPins { s.pins with interlockOpen := false }
    if s.pins.resetAsserted then .next t else .next (autoRestart t)
  else .next s

end Sys2Proof.Machine
end

