-- ==== Sys2Proof/Machine/Arc.lean ====
section
/-! DEFINITION. The Arc Monitor: filters, strikes, ageing and stuck inputs (Chapter 5). -/

namespace Sys2Proof.Machine

/-- An arc input replaced. -/
def ArcMonitor.setInput (a : ArcMonitor) (i : Fin 3) (x : ArcInput) : ArcMonitor :=
  { a with inputs := a.inputs.set i x }

/-- An arc input's filter replaced. -/
def ArcMonitor.setFilter (a : ArcMonitor) (i : Fin 3) (f : FilterState) : ArcMonitor :=
  a.setInput i { a.inputs[i] with filter := f }

/-- The level of an arc line replaced. -/
def setArcLine (i : Fin 3) (level : Bool) (s : State) : State :=
  s.setPins { s.pins with arcLines := s.pins.arcLines.set i level }

/-- An asserting line: IDLE starts qualifying, RELEASING returns to HELD (R91). -/
def FilterState.onAssert : FilterState → FilterState
  | .idle => .qualifying
  | .releasing => .held
  | .qualifying => .qualifying
  | .held => .held

/-- A deasserting line: QUALIFYING is abandoned, HELD starts releasing (R91). -/
def FilterState.onDeassert : FilterState → FilterState
  | .qualifying => .idle
  | .held => .releasing
  | .idle => .idle
  | .releasing => .releasing

/-- ARC_LINE_ASSERT (R91). During reset the filter takes no change (R102). -/
def execArcLineAssert (input : Fin 3) (s : State) : Host.Outcome State Fault Refusal :=
  let t := setArcLine input true s
  if s.pins.resetAsserted then .next t
  else .next (t.setAm (s.am.setFilter input s.am.inputs[input].filter.onAssert))

/-- ARC_LINE_DEASSERT (R91). During reset the filter takes no change (R102). -/
def execArcLineDeassert (input : Fin 3) (s : State) : Host.Outcome State Fault Refusal :=
  let t := setArcLine input false s
  if s.pins.resetAsserted then .next t
  else .next (t.setAm (s.am.setFilter input s.am.inputs[input].filter.onDeassert))

/-- A window in milliseconds (R94). -/
def windowMs (g : General) : Nat := g.window * 1000

/-- The strike list without the entries whose age has reached the window (R94, R98). -/
def pruneStrikes (now : Word) (window : Nat) (l : List Strike) : List Strike :=
  l.filter fun x => age now x.timestamp < window

/-- An ARC record (R97). -/
def arcRecord (s : State) (input : Fin 3) (value : Nat) (noRf : Bool) : Record :=
  { newRecord s .arc input.val value with noRf := noRf }

/-- A strike: prune, append, record, then ARC_LOCKOUT or STRIKE to the sequencer (R94, R95). -/
def strike (input : Fin 3) (s : State) : State :=
  let g := s.lt.effective.general
  let l := pruneStrikes s.msCounter (windowMs g) s.am.strikes ++ [{ detector := input, timestamp := s.msCounter }]
  let s1 := s.setAm { s.am with strikes := l }
  let s2 := addRecord (arcRecord s1 input l.length false) s1
  if g.strikeLimit ≤ l.length then tripDemand .arcLockout s2 else strikeSignal s2

/-- An arc event begins: a strike in SETTLE, RUN or MUTE, else a no-RF arc (R93). -/
def arcEvent (input : Fin 3) (s : State) : State :=
  match s.sq.state with
  | .settle => strike input s
  | .run => strike input s
  | .mute => strike input s
  | .off => addRecord (arcRecord s input 0 true) s
  | .discharge => addRecord (arcRecord s input 0 true) s
  | .tripped => addRecord (arcRecord s input 0 true) s

/-- ARC_QUALIFY_EXPIRY (R91, R93, R99): in QUALIFYING the filter is HELD, the stuck timer starts and the event begins. -/
def execArcQualifyExpiry (input : Fin 3) (s : State) : Host.Outcome State Fault Refusal :=
  if s.am.inputs[input].filter = .qualifying then
    .next (arcEvent input
      (s.setAm (s.am.setInput input { s.am.inputs[input] with filter := .held, stuckTimer := some s.msCounter })))
  else .next s

/-- ARC_RELEASE_EXPIRY (R91, R92, R100): in RELEASING the event ends, the stuck timer stops, the stuck flag clears, and
the arc clear is given if no input is held. -/
def execArcReleaseExpiry (input : Fin 3) (s : State) : Host.Outcome State Fault Refusal :=
  if s.am.inputs[input].filter = .releasing then
    let t := s.setAm (s.am.setInput input { filter := .idle, stuckTimer := none, stuck := false })
    if t.am.arcHeld then .next t else .next (arcClear t)
  else .next s

/-- A stuck timer is running and has run for 2000 ms (R99). -/
def stuckDue (now : Word) : Option Word → Bool
  | none => false
  | some t => decide (Config.stuckTime ≤ age now t)

/-- STUCK_TIMER_EXPIRY (R99): the timer stops, the stuck flag sets, and an ARC_STUCK demand is given. -/
def execStuckTimerExpiry (input : Fin 3) (s : State) : Host.Outcome State Fault Refusal :=
  if stuckDue s.msCounter s.am.inputs[input].stuckTimer then
    .next (tripDemand .arcStuck
      (s.setAm (s.am.setInput input { s.am.inputs[input] with stuckTimer := none, stuck := true })))
  else .next s

/-- STRIKE_ENTRY_AGEING (R98): the oldest entry leaves the list when its age has reached the window. -/
def execStrikeEntryAgeing (s : State) : Host.Outcome State Fault Refusal :=
  match s.am.strikes with
  | [] => .next s
  | x :: rest =>
    if windowMs s.lt.effective.general ≤ age s.msCounter x.timestamp then .next (s.setAm { s.am with strikes := rest })
    else .next s

end Sys2Proof.Machine
end

