-- ==== Sys2Proof/Machine/Limits.lean ====
section
/-! DEFINITION. The Limit Table: clamping, the effective view, staging, the pending-update set and taking effect
(Chapter 7). -/

namespace Sys2Proof.Machine

/-! ### Clamping written words (R133 to R136, R145, R195) -/

/-- A channel entry from its two words. The width is held and shown cut also where the slot makes the channel absent: the
model's choice (log entry 27). -/
def clampChannel (a b : Word) : ChannelEntry where
  slot := field a 0 5
  offset := field a 8 5
  width := min (min (field a 16 5) 16) (32 - field a 8 5)
  signed := flag a 24
  present := flag a 25 && decide (1 ≤ field a 0 5) && decide (field a 0 5 ≤ 30) && decide (1 ≤ field a 16 5)
  required := flag a 26
  scale := max 1 (field b 0 8)
  shift := field b 8 4
  trip := signedField b 16 16

/-- A coarse entry from its word. -/
def clampCoarse (w : Word) : CoarseEntry where
  refined := flag w 31
  value := min (field w 0 13) 4096
  block := Fin.ofNat 8 (field w 16 3)

/-- A fine entry from its word. -/
def clampFine (w : Word) : Nat := min (field w 0 13) 4096

/-- A summary map word (R194). -/
def clampMap (w : Word) : MapEntry where
  mapped := flag w 15
  bit := Fin.ofNat 32 (field w 0 5)
  sense := flag w 8

/-- A mask with the positions of the twenty record kinds kept: bits 1 to 20 (R193). -/
def clampMask (w : Word) : Word := w &&& 0x001FFFFE

/-- The general entries with entry g replaced, from its two words. -/
def clampGeneral (g : Fin 13) (a b : Word) (x : General) : General :=
  match g with
  | 0 => { x with prlim := min (field a 0 16) 30000, pfmin := min (field b 0 16) 30000 }
  | 1 => { x with rho2trip := clampNat 1 4096 (field a 0 16), vswrPersist := max 1 (field b 0 8) }
  | 2 => { x with rho2mod := clampNat 1 4096 (field a 0 16), modPersist := max 1 (field b 0 4), modFmin := min (field b 16 16) 4000 }
  | 3 => { x with rise := clampNat 1 4095 (field a 0 16), holdMax := field b 0 8 }
  | 4 => { x with flowMin := min (field a 0 16) 2000, flowFrames := max 1 (field b 0 8), flowHyst := field b 16 8 }
  | 5 => { x with thyst := min (field a 0 16) 500, fp := max 1 (field b 0 4) }
  | 6 => { x with quench := clampNat 1 1000 (field a 0 16), strikeLimit := clampNat 1 8 (field b 0 4), window := max 1 (field b 16 8) }
  | 7 => { x with settle := clampNat 10 5000 (field a 0 16), discharge := clampNat 10 5000 (field b 0 16) }
  | 8 => { x with frameTimeout := max 1 (field a 0 8), autoThermal := flag a 16, autoCooling := flag a 17, autoInterlock := flag a 18, gateLimit := min (field b 0 4) 7 }
  | 9 => { x with bModule := clampInt (-400) 1500 (signedField a 0 16), bCoolant := clampInt (-400) 1500 (signedField b 0 16) }
  | 10 => { x with bFilter := clampInt (-400) 1500 (signedField a 0 16) }
  | 11 => { x with attentionMask := clampMask a, triggerMask := clampMask b }
  | 12 => { x with pattern := BitVec.ofNat 30 (field a 0 16 + field b 0 14 * 2 ^ 16) }

/-! ### The words in effect (R147, R195) -/

/-- Word A of a channel entry in effect. -/
def channelWordA (e : ChannelEntry) : Word :=
  pack [(e.slot, 0, 5), (e.offset, 8, 5), (e.width, 16, 5), (e.signed.toNat, 24, 1), (e.present.toNat, 25, 1),
    (e.required.toNat, 26, 1)]

/-- Word B of a channel entry in effect. -/
def channelWordB (e : ChannelEntry) : Word := pack [(e.scale, 0, 8), (e.shift, 8, 4), (signed16 e.trip, 16, 16)]

/-- The word of a coarse entry in effect. -/
def coarseWord (e : CoarseEntry) : Word := pack [(e.value, 0, 13), (e.block.val, 16, 3), (e.refined.toNat, 31, 1)]

/-- The word of a fine entry in effect. -/
def fineWord (v : Nat) : Word := pack [(v, 0, 13)]

/-- The summary map word in effect. -/
def mapWord (e : MapEntry) : Word := pack [(e.bit.val, 0, 5), (e.sense.toNat, 8, 1), (e.mapped.toNat, 15, 1)]

/-- Word A of general entry g in effect. -/
def generalWordA (x : General) (g : Fin 13) : Word :=
  match g with
  | 0 => pack [(x.prlim, 0, 16)]
  | 1 => pack [(x.rho2trip, 0, 16)]
  | 2 => pack [(x.rho2mod, 0, 16)]
  | 3 => pack [(x.rise, 0, 16)]
  | 4 => pack [(x.flowMin, 0, 16)]
  | 5 => pack [(x.thyst, 0, 16)]
  | 6 => pack [(x.quench, 0, 16)]
  | 7 => pack [(x.settle, 0, 16)]
  | 8 => pack [(x.frameTimeout, 0, 8), (x.autoThermal.toNat, 16, 1), (x.autoCooling.toNat, 17, 1), (x.autoInterlock.toNat, 18, 1)]
  | 9 => pack [(signed16 x.bModule, 0, 16)]
  | 10 => pack [(signed16 x.bFilter, 0, 16)]
  | 11 => x.attentionMask
  | 12 => pack [(x.pattern.toNat, 0, 16)]

/-- Word B of general entry g in effect; word B of G10 reads 0. -/
def generalWordB (x : General) (g : Fin 13) : Word :=
  match g with
  | 0 => pack [(x.pfmin, 0, 16)]
  | 1 => pack [(x.vswrPersist, 0, 8)]
  | 2 => pack [(x.modPersist, 0, 4), (x.modFmin, 16, 16)]
  | 3 => pack [(x.holdMax, 0, 8)]
  | 4 => pack [(x.flowFrames, 0, 8), (x.flowHyst, 16, 8)]
  | 5 => pack [(x.fp, 0, 4)]
  | 6 => pack [(x.strikeLimit, 0, 4), (x.window, 16, 8)]
  | 7 => pack [(x.discharge, 0, 16)]
  | 8 => pack [(x.gateLimit, 0, 4)]
  | 9 => pack [(signed16 x.bCoolant, 0, 16)]
  | 10 => 0
  | 11 => x.triggerMask
  | 12 => pack [(x.pattern.toNat / 2 ^ 16, 0, 14)]

/-- A curve of the table. -/
def EffectiveTable.curve (t : EffectiveTable) : Curve → Vector CoarseEntry 16
  | .modules => t.modulesCurve
  | .coolant => t.coolantCurve
  | .filter => t.filterCurve

/-- The base of a curve (R27). -/
def EffectiveTable.base (t : EffectiveTable) : Curve → Int
  | .modules => t.general.bModule
  | .coolant => t.general.bCoolant
  | .filter => t.general.bFilter

/-- Word A in effect of a two-word entry. -/
def effectiveWordA (t : EffectiveTable) : TwoWordEntry → Word
  | .channel c => channelWordA t.channels[c]
  | .general g => generalWordA t.general g

/-- Word B in effect of a two-word entry. -/
def effectiveWordB (t : EffectiveTable) : TwoWordEntry → Word
  | .channel c => channelWordB t.channels[c]
  | .general g => generalWordB t.general g

/-- The word in effect of a one-word entry. -/
def effectiveOneWord (t : EffectiveTable) : OneWordEntry → Word
  | .coarse curve i => coarseWord (t.curve curve)[i]
  | .fine f => fineWord t.fine[f]
  | .summary n => mapWord t.summary[n]

/-- The effective view's word x: the word in effect that offset 0x100 + x holds, 0 where no entry stands (R147). -/
def effectiveView (t : EffectiveTable) (x : Fin 256) : Word :=
  match limitArea x with
  | .limitA e => effectiveWordA t e
  | .limitB e => effectiveWordB t e
  | .limitOne e => effectiveOneWord t e
  | _ => 0

/-! ### Updates (R139 to R144) -/

/-- An update of an entry: its words as written (R141). -/
inductive Update where
  /-- Both words of a two-word entry. -/
  | two (e : TwoWordEntry) (a b : Word)
  /-- The word of a one-word entry. -/
  | one (e : OneWordEntry) (w : Word)
deriving DecidableEq, Repr

/-- The table with an update in effect, clamped (R145). -/
def EffectiveTable.apply (t : EffectiveTable) : Update → EffectiveTable
  | .two (.channel c) a b => { t with channels := t.channels.set c (clampChannel a b) }
  | .two (.general g) a b => { t with general := clampGeneral g a b t.general }
  | .one (.coarse .modules i) w => { t with modulesCurve := t.modulesCurve.set i (clampCoarse w) }
  | .one (.coarse .coolant i) w => { t with coolantCurve := t.coolantCurve.set i (clampCoarse w) }
  | .one (.coarse .filter i) w => { t with filterCurve := t.filterCurve.set i (clampCoarse w) }
  | .one (.fine f) w => { t with fine := t.fine.set f (clampFine w) }
  | .one (.summary n) w => { t with summary := t.summary.set n (clampMap w) }

/-- The set with an update joined, replacing one of the same entry (R141). -/
def PendingUpdates.insert (p : PendingUpdates) : Update → PendingUpdates
  | .two (.channel c) a b => { p with channels := p.channels.set c (some (a, b)) }
  | .two (.general g) a b => { p with general := p.general.set g (some (a, b)) }
  | .one (.coarse .modules i) w => { p with modulesCurve := p.modulesCurve.set i (some w) }
  | .one (.coarse .coolant i) w => { p with coolantCurve := p.coolantCurve.set i (some w) }
  | .one (.coarse .filter i) w => { p with filterCurve := p.filterCurve.set i (some w) }
  | .one (.fine f) w => { p with fine := p.fine.set f (some w) }
  | .one (.summary n) w => { p with summary := p.summary.set n (some w) }

/-- One general entry's pending update in effect. -/
def applyGeneral (u : Vector (Option (Word × Word)) 13) (x : General) (g : Fin 13) : General :=
  match u[g] with
  | none => x
  | some (a, b) => clampGeneral g a b x

/-- The value of an entry after its pending update, if any, takes effect. -/
def applyPending {α β : Type} (clamp : β → α) (old : α) : Option β → α
  | none => old
  | some w => clamp w

/-- The table with every pending update in effect together (R143, R144). -/
def EffectiveTable.applyAll (t : EffectiveTable) (p : PendingUpdates) : EffectiveTable where
  channels := Vector.ofFn fun c => applyPending (fun w => clampChannel w.1 w.2) t.channels[c] p.channels[c]
  modulesCurve := Vector.ofFn fun i => applyPending clampCoarse t.modulesCurve[i] p.modulesCurve[i]
  coolantCurve := Vector.ofFn fun i => applyPending clampCoarse t.coolantCurve[i] p.coolantCurve[i]
  filterCurve := Vector.ofFn fun i => applyPending clampCoarse t.filterCurve[i] p.filterCurve[i]
  fine := Vector.ofFn fun f => applyPending clampFine t.fine[f] p.fine[f]
  general := (List.finRange 13).foldl (applyGeneral p.general) t.general
  summary := Vector.ofFn fun n => applyPending clampMap t.summary[n] p.summary[n]

/-! ### What a change of the table does at once (R146) -/

/-- A channel record refreshed from its effective entry: the flags are copied, and a record that becomes absent or
present starts from value 0, counter 0 and failed flag clear (R15). -/
def refreshRecord (e : ChannelEntry) (r : ChannelRecord) : ChannelRecord :=
  if e.present = r.present then { r with required := e.required, signed := e.signed }
  else { r with present := e.present, required := e.required, signed := e.signed, value := 0, faults := 0, failed := false }

/-- A record refreshed outside an evaluation: one made absent takes fraction 4096 at once, its derate-open flag clear
(R15, R31). -/
def refreshRecordNow (e : ChannelEntry) (r : ChannelRecord) : ChannelRecord :=
  if r.present && !e.present then { refreshRecord e r with fraction := Config.fullFraction, derateOpen := false }
  else refreshRecord e r

/-- The thermal channels whose refresh to absent closes a DERATE record, in ascending index (R31; log entry 8). -/
def derateClosesAt (t : EffectiveTable) (channels : Vector ChannelRecord 30) : List (Fin 11) :=
  (List.finRange 11).filter fun k =>
    channels[thermalChannel k].present && !t.channels[thermalChannel k].present && channels[thermalChannel k].derateOpen

/-- The strike list when a new window takes effect: lowered, every entry that has reached it leaves at once (R98). -/
def strikesUnder (now : Word) (old new : General) (l : List Strike) : List Strike :=
  if new.window < old.window then pruneStrikes now (windowMs new) l else l

/-- A new effective table, the WINDOW consequence with it (R98, R132). -/
def setTable (t : EffectiveTable) (s : State) : State :=
  (s.setLt { s.lt with effective := t }).setAm
    { s.am with strikes := strikesUnder s.msCounter s.lt.effective.general t.general s.am.strikes }

/-- A DERATE close of a thermal channel (R33). -/
def derateClose (s : State) (k : Fin 11) : State :=
  closeRecord .derate (thermalChannel k).val Config.fullFraction s

/-- A new table taking effect outside an evaluation: the channel flags are refreshed at that moment, with any DERATE
closes (R15, R31, R142, R144). -/
def takeEffectNow (t : EffectiveTable) (s : State) : State :=
  let s1 := setTable t s
  let s2 := s1.setTd { s1.td with
    channels := Vector.ofFn fun c => refreshRecordNow t.channels[c] s.td.channels[c] }
  (derateClosesAt t s.td.channels).foldl derateClose s2

/-- The pending-update set taking effect outside an evaluation, and emptied (R144). -/
def takePendingNow (s : State) : State :=
  takeEffectNow (s.lt.effective.applyAll s.lt.pendingSet) (s.setLt { s.lt with pendingSet := PendingUpdates.empty })

/-- An update handed over: it takes effect at once while telemetry is lost and no evaluation is in flight, else it joins
the pending-update set (R142). -/
def handOver (u : Update) (s : State) : State :=
  if s.td.telemetryLost && !s.inFlight then takeEffectNow (s.lt.effective.apply u) s
  else s.setLt { s.lt with pendingSet := s.lt.pendingSet.insert u }

/-! ### Staging (R137 to R140) -/

/-- A master's staging holder; the scanner and the drive link have none. -/
def BusPassage.staging (b : BusPassage) : Master → Option (TwoWordEntry × Word)
  | .cp => b.stagingCp
  | .sp => b.stagingSp
  | .ts => none
  | .dl => none

/-- The passage with a master's staging holder replaced. -/
def BusPassage.setStaging (b : BusPassage) (m : Master) (x : Option (TwoWordEntry × Word)) : BusPassage :=
  match m with
  | .cp => { b with stagingCp := x }
  | .sp => { b with stagingSp := x }
  | .ts => b
  | .dl => b

/-- The update of an entry in the pending-update set, if one is there (R139). -/
def PendingUpdates.two (p : PendingUpdates) : TwoWordEntry → Option (Word × Word)
  | .channel c => p.channels[c]
  | .general g => p.general[g]

/-- An entry's newest word A: that of its pending update, or else the effective one (R139). -/
def newestWordA (l : LimitTable) (e : TwoWordEntry) : Word :=
  match l.pendingSet.two e with
  | some (a, _) => a
  | none => effectiveWordA l.effective e

/-- Whether a write to a limit entry offset is interpreted: by CP or SP with all four lanes (R131, R183). -/
def limitInterpreted (m : Master) (lanes : Lanes) : Bool := (m == .cp || m == .sp) && fullLanes lanes

/-- An interpreted write of word A loads the writing master's holder (R138). -/
def stageWordA (m : Master) (e : TwoWordEntry) (w : Word) (s : State) : State :=
  s.setBp (s.bp.setStaging m (some (e, w)))

/-- An interpreted write of word B forms an update with the staged or the newest word A, and hands it over (R139). -/
def formWordB (m : Master) (e : TwoWordEntry) (w : Word) (s : State) : State :=
  match s.bp.staging m with
  | some (e', a) =>
    if e' = e then handOver (.two e a w) (s.setBp (s.bp.setStaging m none))
    else handOver (.two e (newestWordA s.lt e) w) s
  | none => handOver (.two e (newestWordA s.lt e) w) s

/-- A write to a limit entry offset: it reaches memory; outside reset it is taken if interpreted and is else one misuse
(R131, R182, R183, R191). -/
def limitWrite (m : Master) (lanes : Lanes) (offset : Nat) (w : Word) (take : State → State) (s : State) : State :=
  let t := s.forwardWrite (regionAddress s offset) lanes w
  if s.pins.resetAsserted then t
  else if limitInterpreted m lanes then take t
  else t.misuse offset

/-- A write of word A of an entry (R138). -/
def limitWriteA (m : Master) (lanes : Lanes) (e : TwoWordEntry) (w : Word) (s : State) : State :=
  limitWrite m lanes (wordAOffset e) w (stageWordA m e w) s

/-- A write of word B of an entry (R139). -/
def limitWriteB (m : Master) (lanes : Lanes) (e : TwoWordEntry) (w : Word) (s : State) : State :=
  limitWrite m lanes (wordBOffset e) w (formWordB m e w) s

/-- A write of a one-word entry (R140). -/
def limitWriteOne (m : Master) (lanes : Lanes) (e : OneWordEntry) (w : Word) (s : State) : State :=
  limitWrite m lanes (oneWordOffset e) w (handOver (.one e w)) s

/-- LIMIT_WORD_A_WRITE (R138). -/
def execLimitWordAWrite (master : Master) (entry : TwoWordEntry) (word : Word) (s : State) :
    Host.Outcome State Fault Refusal :=
  .next (limitWriteA master 0xF entry word s)

/-- LIMIT_WORD_B_WRITE (R139). -/
def execLimitWordBWrite (master : Master) (entry : TwoWordEntry) (word : Word) (s : State) :
    Host.Outcome State Fault Refusal :=
  .next (limitWriteB master 0xF entry word s)

/-- LIMIT_ONE_WORD_WRITE (R140). -/
def execLimitOneWordWrite (master : Master) (entry : OneWordEntry) (word : Word) (s : State) :
    Host.Outcome State Fault Refusal :=
  .next (limitWriteOne master 0xF entry word s)

end Sys2Proof.Machine
end

