-- ==== Sys2Proof/Machine/Requests.lean ====
section
/-! DEFINITION. The eight requests (R187, R188), each judged by the block that owns it. -/

namespace Sys2Proof.Machine

/-- What every write to a request word shares: during reset it is forwarded (R191); with fewer than four lanes it is one
misuse (R182); from the scanner or the drive link it is refused with REFUSED_MASTER and one misuse (R188); from the
control processor or the service port the owning block judges it and S4 takes the result (R187). -/
def takeRequest (r : Request) (m : Master) (lanes : Lanes) (value : Word) (judge : State → State × RequestResult)
    (s : State) : State :=
  if s.pins.resetAsserted then s.forwardWrite (regionAddress s (requestOffset r)) lanes value
  else if fullLanes lanes then
    match m with
    | .cp => (judge s).1.setS4 r m (judge s).2
    | .sp => (judge s).1.setS4 r m (judge s).2
    | .ts => (s.setS4 r m .refusedMaster).misuse (requestOffset r)
    | .dl => (s.setS4 r m .refusedMaster).misuse (requestOffset r)
  else s.misuse (requestOffset r)

/-- A RESTART request: checked in OFF and TRIPPED, refused elsewhere (R121, R122). -/
def judgeRestart (m : Master) (s : State) : State × RequestResult :=
  match s.sq.state with
  | .off | .tripped =>
    match restartCheck s with
    | some k => (s, .refusedCause k)
    | none => (performRestart false (masterTag m) s, .accepted)
  | .settle | .run | .mute | .discharge => (s, .refusedState)

/-- A STOP record (R125). -/
def stopRecord (s : State) (m : Master) : Record :=
  { newRecord s .stop 0 0 with extra := BitVec.ofNat 32 (masterTag m) }

/-- A STOP request: SETTLE, RUN and MUTE enter DISCHARGE toward OFF (R125). -/
def judgeStop (m : Master) (s : State) : State × RequestResult :=
  match s.sq.state with
  | .settle | .run | .mute => (enterState .discharge .off (addRecord (stopRecord s m) s), .accepted)
  | .off | .discharge | .tripped => (s, .refusedState)

/-- The module a READMIT names, if its number lies in 0..7 (R64, R194). -/
def readmitModule (value : Word) : Option (Fin 8) :=
  if h : field value 0 16 < 8 then some ⟨field value 0 16, h⟩ else none

/-- The Mismatch Unit with MISMATCH removed from a module, its counter 0, and the module ADMITTED if no cause is left (R64). -/
def MismatchUnit.readmit (u : MismatchUnit) (m : Fin 8) : MismatchUnit :=
  { u with
    moduleCounters := u.moduleCounters.set m 0
    admission := u.admission.set m u.admission[m].restarted }

/-- A READMIT request (R64). -/
def judgeReadmit (value : Word) (s : State) : State × RequestResult :=
  match readmitModule value with
  | none => (s, .refusedArgument)
  | some m =>
    if s.mu.admission[m].gated then
      let t := s.setMu (s.mu.readmit m)
      if s.mu.admission[m].sensor then (t, .refusedCause .sensor)
      else if s.mu.admission[m].hot then (t, .refusedCause .thermal)
      else (addRecord (readmittedRecord t m false) t, .accepted)
    else (s, .refusedState)

/-- A STRIKE CLEAR request: the list is emptied in OFF and TRIPPED (R104). -/
def judgeStrikeClear (s : State) : State × RequestResult :=
  match s.sq.state with
  | .off | .tripped => (s.setAm { s.am with strikes := [] }, .accepted)
  | .settle | .run | .mute | .discharge => (s, .refusedState)

/-- A JOURNAL CLEAR request: accepted from the owner (R163). -/
def judgeJournalClear (m : Master) (s : State) : State × RequestResult :=
  if isOwner s.fj.owner m then (s.setFj s.fj.clear, .accepted) else (s, .refusedOwner)

/-- An OWNERSHIP CLEAR request: the service port frees an owned journal (R160). -/
def judgeOwnershipClear (m : Master) (s : State) : State × RequestResult :=
  match m with
  | .sp => if s.fj.owner = .free then (s, .refusedState) else (s.setFj { s.fj with owner := .free }, .accepted)
  | .cp | .ts | .dl => (s, .refusedMaster)

/-- The mode a CAPTURE ARM carries (R194). -/
def captureModeOf (value : Word) : CaptureMode := if flag value 16 then .continuous else .single

/-- A CAPTURE ARM request, accepted in every capture state (R170). -/
def judgeCaptureArm (value : Word) (s : State) : State × RequestResult :=
  (s.setCap (CaptureUnit.arm s.lt.effective.general.pattern (field value 0 11) (captureModeOf value)), .accepted)

/-- A CAPTURE STOP request: an ARMED capture takes the trigger (R174). -/
def judgeCaptureStop (s : State) : State × RequestResult :=
  match s.cap.state with
  | .armed => (s.setCap s.cap.takeTrigger, .accepted)
  | .idle | .post | .frozen => (s, .refusedState)

/-- RESTART (R121). -/
def execRestart (master : Master) (lanes : Lanes) (value : Word) (s : State) : Host.Outcome State Fault Refusal :=
  .next (takeRequest .restart master lanes value (judgeRestart master) s)

/-- STOP (R125). -/
def execStop (master : Master) (lanes : Lanes) (value : Word) (s : State) : Host.Outcome State Fault Refusal :=
  .next (takeRequest .stop master lanes value (judgeStop master) s)

/-- READMIT (R64). -/
def execReadmit (master : Master) (lanes : Lanes) (value : Word) (s : State) : Host.Outcome State Fault Refusal :=
  .next (takeRequest .readmit master lanes value (judgeReadmit value) s)

/-- STRIKE CLEAR (R104). -/
def execStrikeClear (master : Master) (lanes : Lanes) (value : Word) (s : State) : Host.Outcome State Fault Refusal :=
  .next (takeRequest .strikeClear master lanes value judgeStrikeClear s)

/-- JOURNAL CLEAR (R163). -/
def execJournalClear (master : Master) (lanes : Lanes) (value : Word) (s : State) : Host.Outcome State Fault Refusal :=
  .next (takeRequest .journalClear master lanes value (judgeJournalClear master) s)

/-- OWNERSHIP CLEAR (R160). -/
def execOwnershipClear (master : Master) (lanes : Lanes) (value : Word) (s : State) : Host.Outcome State Fault Refusal :=
  .next (takeRequest .ownershipClear master lanes value (judgeOwnershipClear master) s)

/-- CAPTURE ARM (R170). -/
def execCaptureArm (master : Master) (lanes : Lanes) (value : Word) (s : State) : Host.Outcome State Fault Refusal :=
  .next (takeRequest .captureArm master lanes value (judgeCaptureArm value) s)

/-- CAPTURE STOP (R174). -/
def execCaptureStop (master : Master) (lanes : Lanes) (value : Word) (s : State) : Host.Outcome State Fault Refusal :=
  .next (takeRequest .captureStop master lanes value judgeCaptureStop s)

end Sys2Proof.Machine
end

