-- ==== Sys2Proof/Machine/Evaluation.lean ====
section
/-! DEFINITION. An evaluation's start: the pending updates, the channel decoding, and what the Derating and Mismatch Units
compute from one snapshot and one table (R14, Chapters 1 to 3). -/

namespace Sys2Proof.Machine

/-! ### Decoding a channel (R16 to R22) -/

/-- The plausible range of a channel's kind (R19). -/
def plausibleRange (c : Fin 30) : Int × Int :=
  if c.val < 16 then (0, 4000)
  else if c.val < 18 then (0, 30000)
  else if c.val < 29 then (-400, 1500)
  else (0, 2000)

/-- The raw field of a slot word (R17). -/
def rawField (e : ChannelEntry) (signed : Bool) (w : Word) : Int :=
  if signed then toSigned (field w e.offset e.width) e.width else field w e.offset e.width

/-- The scaled value: raw times scale over 2 to the shift, rounded toward negative infinity (R18). -/
def scaledValue (e : ChannelEntry) (raw : Int) : Int := raw * e.scale / 2 ^ e.shift

/-- The word of a slot in a snapshot, if its written mark is set (R16). -/
def Snapshot.slotWord (n : Snapshot) (slot : Nat) : Option Word :=
  if h : 1 ≤ slot ∧ slot ≤ 30 then
    if n.marks[slot - 1] then some n.words[slot - 1] else none
  else none

/-- A record after a clamped or stale reading left it this value: the fault counter rises, saturating at 15, and at FP
or more the channel has failed (R20, R21). -/
def badReading (fp : Nat) (r : ChannelRecord) (v : Int) : ChannelRecord :=
  { r with value := v, faults := countUp 15 r.faults, failed := r.failed || decide (fp ≤ countUp 15 r.faults) }

/-- A present channel's record after its reading (R16 to R22); an absent channel is not decoded. -/
def decodeRecord (c : Fin 30) (e : ChannelEntry) (fp : Nat) (n : Snapshot) (r : ChannelRecord) : ChannelRecord :=
  if r.present then
    match n.slotWord e.slot with
    | none => badReading fp r r.value
    | some w =>
      let x := scaledValue e (rawField e r.signed w)
      let lo := (plausibleRange c).1
      let hi := (plausibleRange c).2
      if lo ≤ x ∧ x ≤ hi then { r with value := x, faults := 0, failed := false }
      else badReading fp r (clampInt lo hi x)
  else r

/-- What a reading raised: CHANNEL_FAILED when the failed flag set, CHANNEL_RESTORED when it cleared (R21, R22). -/
def channelEvent (c : Fin 30) (before after : ChannelRecord) : Option ChannelEvent :=
  if before.failed = after.failed then none
  else some { channel := c, restored := before.failed, value := after.value }

/-! ### Curves (R27 to R29) -/

/-- The coarse and fine index of a difference from the base (R28). -/
def lookupIndex (d : Int) : Fin 16 × Fin 8 :=
  if d < 0 then (0, 0)
  else if h : d < 1280 then (⟨(d / 80).toNat, by omega⟩, ⟨(d % 80 / 10).toNat, by omega⟩)
  else (15, 7)

/-- The fine entry 8b + j (R29). -/
def fineIndex (b j : Fin 8) : Fin 64 := ⟨8 * b.val + j.val, by omega⟩

/-- The fraction a curve gives at a temperature (R28, R29). -/
def lookup (t : EffectiveTable) (curve : Curve) (temperature : Int) : Nat :=
  let ij := lookupIndex (temperature - t.base curve)
  let e := (t.curve curve)[ij.1]
  if e.refined then t.fine[fineIndex e.block ij.2] else e.value

/-- The new fraction of a thermal channel: 4096 when it is unusable (R30). -/
def newFraction (t : EffectiveTable) (channels : Vector ChannelRecord 30) (k : Fin 11) : Nat :=
  let r := channels[thermalChannel k]
  if r.usable then lookup t (curveOf k) r.value else Config.fullFraction

/-! ### Derating Unit tests (R35, R37, R39, R40) -/

/-- The new hot flag of a module (R35). -/
def newHot (t : EffectiveTable) (channels : Vector ChannelRecord 30) (hot : Vector Bool 8) (m : Fin 8) : Bool :=
  let r := channels[hskChannel m]
  let trip := t.channels[hskChannel m].trip
  r.usable && (if hot[m] then decide (trip - t.general.thyst ≤ r.value) else decide (trip ≤ r.value))

/-- A usable channel of the thermal condition stands at or above its trip level (R37). -/
def overTrip (t : EffectiveTable) (channels : Vector ChannelRecord 30) (c : Fin 30) : Bool :=
  channels[c].usable && decide (t.channels[c].trip ≤ channels[c].value)

/-- A usable channel of the thermal condition stands at or above its release temperature (R37). -/
def overRelease (t : EffectiveTable) (channels : Vector ChannelRecord 30) (c : Fin 30) : Bool :=
  channels[c].usable && decide (t.channels[c].trip - t.general.thyst ≤ channels[c].value)

/-- The new thermal condition, over CLIN, CLOUT and FILT as a group (R37). -/
def newThermal (t : EffectiveTable) (channels : Vector ChannelRecord 30) (before : Bool) : Bool :=
  if before then overRelease t channels clin || overRelease t channels clout || overRelease t channels filt
  else overTrip t channels clin || overTrip t channels clout || overTrip t channels filt

/-- The new flow counter (R39). -/
def newFlowCounter (t : EffectiveTable) (channels : Vector ChannelRecord 30) (before : Nat) : Nat :=
  if channels[flow].usable ∧ channels[flow].value < (t.general.flowMin : Int) then countUp 255 before else 0

/-- The new cooling condition, from the new flow counter (R40). -/
def newCooling (t : EffectiveTable) (channels : Vector ChannelRecord 30) (before : Bool) (counter : Nat) : Bool :=
  channels[flow].usable &&
    if before then decide (channels[flow].value < ((t.general.flowMin + t.general.flowHyst : Nat) : Int))
    else decide (t.general.flowFrames ≤ counter)

/-! ### Mismatch Unit tests (R49, R50, R56, R58) -/

/-- The release level: PRLIM minus an eighth of it (R49). -/
def prrel (g : General) : Nat := g.prlim - g.prlim / 8

/-- The outcome for V from PR and the enforced ceiling at the start (R49, R50). -/
def foldOutcome (g : General) (pr : Int) (e : Nat) : VOutcome :=
  if (g.prlim : Int) < pr then
    if 0 < e then .fold ((e : Int) * g.prlim / pr).toNat else .hold
  else if (prrel g : Int) < pr then .hold
  else .rise

/-- The outcome for V: hold unless OUTF and OUTR are usable (R49). -/
def newVOutcome (t : EffectiveTable) (channels : Vector ChannelRecord 30) (e : Nat) : VOutcome :=
  if channels[outf].usable && channels[outr].usable then foldOutcome t.general channels[outr].value e else .hold

/-- The output trip test's conditions on the readings (R56). -/
def outputTestMet (t : EffectiveTable) (channels : Vector ChannelRecord 30) : Bool :=
  channels[outf].usable && channels[outr].usable && decide ((t.general.pfmin : Int) ≤ channels[outf].value) &&
    decide (t.general.rho2trip * channels[outf].value ≤ 4096 * channels[outr].value)

/-- A module's conditions on the readings: the ratio test or the absolute test (R58). -/
def moduleTestMet (t : EffectiveTable) (channels : Vector ChannelRecord 30) (m : Fin 8) : Bool :=
  let fwd := channels[fwdChannel m]
  let rfl := channels[rflChannel m]
  fwd.usable && rfl.usable && decide ((t.general.modFmin : Int) ≤ fwd.value) &&
    (decide (t.general.rho2mod * fwd.value ≤ 4096 * rfl.value) || decide (t.channels[rflChannel m].trip ≤ rfl.value))

/-! ### The start -/

/-- Every update in the pending-update set takes effect, and the channel flags are refreshed, as the first actions of an
evaluation (R14, R15, R143). -/
def takePendingAtStart (s : State) : State :=
  let t := s.lt.effective.applyAll s.lt.pendingSet
  let s1 := setTable t (s.setLt { s.lt with pendingSet := PendingUpdates.empty })
  s1.setTd { s1.td with channels := Vector.ofFn fun c => refreshRecord t.channels[c] s.td.channels[c] }

/-- The channel records after decoding a snapshot (R16). -/
def decodedChannels (n : Snapshot) (s : State) : Vector ChannelRecord 30 :=
  Vector.ofFn fun c => decodeRecord c s.lt.effective.channels[c] s.lt.effective.general.fp n s.td.channels[c]

/-- The failures and restorations of a decoding, in ascending channel index (R23). -/
def decodeEvents (before after : Vector ChannelRecord 30) : List ChannelEvent :=
  (List.finRange 30).filterMap fun c => channelEvent c before[c] after[c]

/-- What an evaluation computes from its decoded channels, its table, and the state at its start (R48). -/
def computeEvaluation (n : Snapshot) (events : List ChannelEvent) (s : State) : Evaluation :=
  let t := s.lt.effective
  let ch := s.td.channels
  let counter := newFlowCounter t ch s.du.flowCounter
  { snapshot := n
    channelEvents := events
    fractions := Vector.ofFn (newFraction t ch)
    hot := Vector.ofFn (newHot t ch s.du.hot)
    thermal := newThermal t ch s.du.thermal
    flowCounter := counter
    cooling := newCooling t ch s.du.cooling counter
    vOutcome := newVOutcome t ch s.cu.e
    outputTest := outputTestMet t ch
    moduleTests := Vector.ofFn (moduleTestMet t ch)
    sensorCauses := Vector.ofFn (sensorCause ch)
    rise := t.general.rise
    vswrPersist := t.general.vswrPersist
    modPersist := t.general.modPersist
    gateLimit := t.general.gateLimit }

/-- An evaluation begins with a snapshot (R14). The decoded records stand at once, and with them the sensor condition (R25;
log entry 25). -/
def startEvaluation (n : Snapshot) (s : State) : State :=
  let s1 := takePendingAtStart s
  let ch := decodedChannels n s1
  let s2 := s1.setTd { s1.td with channels := ch }
  s2.setCu { s2.cu with evaluation := some (computeEvaluation n (decodeEvents s1.td.channels ch) s2) }

end Sys2Proof.Machine
end

