-- ==== Sys2Proof/Machine/Telemetry.lean ====
section
/-! DEFINITION. The Telemetry Decoder: frames, orphans, the frame timer and the scheduling of evaluations (Chapter 1). -/

namespace Sys2Proof.Machine

/-! ### Opening a frame (R3 to R5) -/

/-- The gap of the sequence check, modulo 256 (R4). -/
def sequenceGap (seq last : BitVec 8) : BitVec 8 := seq - last - 1

/-- The sequence check at a frame open: no check before the first frame; a gap other than 0 is recorded (R4). -/
def sequenceCheck (seq : BitVec 8) (s : State) : State :=
  if s.td.frameSeen ∧ sequenceGap seq s.td.lastSeq ≠ 0 then
    streamRecord (newRecord s .telemetryGap 0 (sequenceGap seq s.td.lastSeq).toNat) s
  else s

/-- The low byte of a header or end word (R194). -/
def lowByte (w : Word) : BitVec 8 := BitVec.ofNat 8 (field w 0 8)

/-- The decoder after a frame open: an open frame is abandoned and counted (R5), the marks are cleared, and the sequence
and the flags set (R3). -/
def TelemetryDecoder.openFrame (d : TelemetryDecoder) (seq : BitVec 8) : TelemetryDecoder :=
  { d with
    abandoned := if d.frameOpen then countUp 255 d.abandoned else d.abandoned
    marks := Vector.replicate 30 false
    frameSeq := seq
    lastSeq := seq
    frameSeen := true
    frameOpen := true }

/-- A slot 0 write is taken (R3, R5). -/
def takeHeader (w : Word) (s : State) : State :=
  (sequenceCheck (lowByte w) s).setTd (s.td.openFrame (lowByte w))

/-! ### Data writes and orphans (R6, R7) -/

/-- A data or end write with no frame open is counted as an orphan (R7). -/
def TelemetryDecoder.orphan (d : TelemetryDecoder) : TelemetryDecoder := { d with orphans := countUp 255 d.orphans }

/-- The word in its slot's latch and the written mark set; the latches stand at index slot - 1 (R6). -/
def TelemetryDecoder.latch (d : TelemetryDecoder) (k : Fin 30) (w : Word) : TelemetryDecoder :=
  { d with latches := d.latches.set k w, marks := d.marks.set k true }

/-- A data slot write is taken (R6, R7). -/
def takeData (k : Fin 30) (w : Word) (s : State) : State :=
  if s.td.frameOpen then s.setTd (s.td.latch k w) else s.setTd s.td.orphan

/-! ### Ending a frame (R8, R9, R12) -/

/-- The number of data slots whose written mark is set (R8). -/
def markCount (marks : Vector Bool 30) : Nat := marks.toList.countP id

/-- The end word's count matches the number of written data slots (R8). -/
def TelemetryDecoder.countMatches (d : TelemetryDecoder) (w : Word) : Bool := markCount d.marks == (lowByte w).toNat

/-- The snapshot of a closed frame; a discarded frame's has every mark clear (R8, R9). -/
def TelemetryDecoder.snapshot (d : TelemetryDecoder) (w : Word) : Snapshot where
  seq := d.frameSeq
  words := d.latches
  marks := if d.countMatches w then d.marks else Vector.replicate 30 false

/-- The decoder after a frame end: the frame closed, a wrong count counted as discarded, the frame timer restarted and
telemetry no longer lost (R8 to R11). -/
def TelemetryDecoder.closeFrame (d : TelemetryDecoder) (w : Word) (now : Word) : TelemetryDecoder :=
  { d with
    frameOpen := false
    discarded := if d.countMatches w then d.discarded else countUp 255 d.discarded
    frameTimer := some now
    telemetryLost := false }

/-- The check before a snapshot is left pending: one that is pending already is overrun, with a FRAME_OVERRUN record
(R12). -/
def overrunCheck (s : State) : State :=
  if s.td.pendingSnapshot.isSome then streamRecord (newRecord s .frameOverrun 0 0) s else s

/-- A snapshot is placed: an evaluation begins, or with one in flight it becomes the pending snapshot (R12). -/
def placeSnapshot (n : Snapshot) (s : State) : State :=
  if s.inFlight then (overrunCheck s).setTd { s.td with pendingSnapshot := some n } else startEvaluation n s

/-- A slot 31 write is taken (R7, R8). -/
def takeEnd (w : Word) (s : State) : State :=
  if s.td.frameOpen then placeSnapshot (s.td.snapshot w) (s.setTd (s.td.closeFrame w s.msCounter))
  else s.setTd s.td.orphan

/-- A telemetry write is taken according to its slot (R1). -/
def takeSlot (slot : Fin 32) (w : Word) (s : State) : State :=
  if h : 1 ≤ slot.val ∧ slot.val ≤ 30 then takeData ⟨slot.val - 1, by omega⟩ w s
  else if slot.val = 0 then takeHeader w s
  else takeEnd w s

/-- A write to the telemetry area: it reaches memory; outside reset it is taken from the scanner with all four lanes and
is else one misuse (R1, R183, R191). -/
def telemetryWrite (m : Master) (lanes : Lanes) (slot : Fin 32) (w : Word) (s : State) : State :=
  let t := s.forwardWrite (regionAddress s (slotOffset slot)) lanes w
  if s.pins.resetAsserted then t
  else if m == .ts && fullLanes lanes then takeSlot slot w t
  else t.misuse (slotOffset slot)

/-- FRAME_HEADER_WRITE (R3). -/
def execFrameHeaderWrite (word : Word) (s : State) : Host.Outcome State Fault Refusal :=
  .next (telemetryWrite .ts 0xF 0 word s)

/-- DATA_SLOT_WRITE (R6). -/
def execDataSlotWrite (slot : Fin 32) (word : Word) (s : State) : Host.Outcome State Fault Refusal :=
  .next (telemetryWrite .ts 0xF slot word s)

/-- FRAME_END (R8). -/
def execFrameEnd (word : Word) (s : State) : Host.Outcome State Fault Refusal :=
  .next (telemetryWrite .ts 0xF 31 word s)

/-! ### The frame timer and the counter (R10, R11, R198) -/

/-- The frame timer is running and its age has reached FRAME_TIMEOUT (R10). -/
def frameTimerDue (s : State) : Bool :=
  match s.td.frameTimer with
  | none => false
  | some t => decide (s.lt.effective.general.frameTimeout ≤ age s.msCounter t)

/-- The expiry gives a TELEMETRY_LOSS demand in SETTLE, RUN and MUTE (R11). -/
def lossDemand (s : State) : State :=
  match s.sq.state with
  | .settle => tripDemand .telemetryLoss s
  | .run => tripDemand .telemetryLoss s
  | .mute => tripDemand .telemetryLoss s
  | .off => s
  | .discharge => s
  | .tripped => s

/-- FRAME_TIMEOUT_EXPIRY (R10, R11, R144): the timer stops, telemetry is lost, the demand is given, and the pending updates
take effect, in this order (log entry 7). -/
def execFrameTimeoutExpiry (s : State) : Host.Outcome State Fault Refusal :=
  if frameTimerDue s then
    .next (takePendingNow (lossDemand (s.setTd { s.td with frameTimer := none, telemetryLost := true })))
  else .next s

/-- MILLISECOND_COUNTER_TICK (R198): the counter advances, wrapping; during reset it holds 0. -/
def execMillisecondCounterTick (s : State) : Host.Outcome State Fault Refusal :=
  if s.pins.resetAsserted then .next s else .next { s with msCounter := s.msCounter + 1 }

end Sys2Proof.Machine
end

