-- ==== Sys2Proof/Machine/Bus.lean ====
section
/-! DEFINITION. The Bus Passage as a whole: the status words, every read, and every write (Chapters 8, 10 and 11). -/

namespace Sys2Proof.Machine

/-! ### The summary word (R166, R167) -/

/-- Source condition n (R167). Source 7 is read as R25 states it, also during an evaluation: the model's choice (log
entry 25). -/
def sourceCondition (s : State) (n : Fin 32) : Bool :=
  if n = 0 then s.sq.state == .run
  else if n = 1 then s.sq.state == .mute
  else if n = 2 then s.sq.state == .tripped
  else if n = 3 then s.sq.state == .off
  else if n = 4 then decide (s.cu.g < Config.fullDrive)
  else if n = 5 then decide (s.mu.v < Config.fullDrive)
  else if n = 6 then s.du.cooling
  else if n = 7 then sensorCondition s.td.channels
  else if h : 8 ≤ n.val ∧ n.val < 16 then s.mu.admission[n.val - 8].gated
  else if h : 16 ≤ n.val ∧ n.val < 24 then decide (s.cu.cm[n.val - 16] < Config.fullDrive)
  else if n = 24 then s.sq.holds .arcLockout
  else if n = 25 then s.interlockCondition
  else if n = 26 then s.cap.state == .frozen
  else if n = 27 then !s.fj.records.isEmpty
  else if n = 28 then s.supplyEnable
  else if n = 29 then s.td.telemetryLost
  else if n = 30 then s.fj.attention
  else s.bp.expiryFlag

/-- A source's contribution to the summary word (R166). -/
def sourceBits (s : State) (n : Fin 32) : Word :=
  let m := s.lt.effective.summary[n]
  if m.mapped && (sourceCondition s n == m.sense) then 1#32 <<< m.bit.val else 0

/-- S9, formed anew at each read (R166). -/
def summaryWord (s : State) : Word := (List.finRange 32).foldl (fun w n => w ||| sourceBits s n) 0

/-! ### The status block (R196) -/

/-- A secondary cause's code, 0 where there is none (R196). -/
def secondaryCode (q : Sequencer) (k : Nat) : Nat := causeCode q.secondary[k]?

/-- S0. -/
def statusS0 (s : State) : Word :=
  pack [(seqStateCode s.sq.state, 0, 3), (destinationCode s.sq.destination, 3, 2), (s.fj.attention.toNat, 5, 1),
    (s.bp.expiryFlag.toNat, 6, 1), (s.fj.records.length, 8, 7), (ownerCode s.fj.owner, 16, 2),
    (captureStateCode s.cap.state, 20, 2)]

/-- S1. -/
def statusS1 (s : State) : Word :=
  pack [(causeCode s.sq.primary, 0, 4), (secondaryCode s.sq 0, 4, 4), (secondaryCode s.sq 1, 8, 4),
    (secondaryCode s.sq 2, 12, 4), (secondaryCode s.sq 3, 16, 4), (s.sq.secondary.length, 20, 3)]

/-- S4; 0 when no request has been taken. -/
def statusS4 (s : State) : Word :=
  match s.bp.lastRequest with
  | none => 0
  | some q => pack [(requestCode q.request, 0, 4), (masterTag q.master, 4, 2), (resultCode q.result, 8, 3),
      (resultCause q.result, 12, 4)]

/-- The gated mask of S8. -/
def gatedMask (s : State) : Nat := ((List.finRange 8).map fun m => s.mu.admission[m].gated.toNat * 2 ^ m.val).sum

/-- The derated mask of S8. -/
def deratedMask (s : State) : Nat :=
  ((List.finRange 11).map fun k => s.td.channels[thermalChannel k].derateOpen.toNat * 2 ^ k.val).sum

/-- The failed-channel count of S8 (R21). -/
def failedCount (s : State) : Nat := s.td.channels.toList.countP fun r => r.failed

/-- S8. -/
def statusS8 (s : State) : Word :=
  pack [(gatedMask s, 0, 8), (deratedMask s, 8, 11), (failedCount s, 24, 5), (s.td.frameSeen.toNat, 31, 1)]

/-- The timestamp of the oldest strike, 0 when the list is empty (R105). -/
def statusS15 (s : State) : Word :=
  match s.am.strikes with
  | [] => 0
  | x :: _ => x.timestamp

/-- Status word Sn. -/
def statusWord (s : State) (n : Fin 16) : Word :=
  match n.val with
  | 0 => statusS0 s
  | 1 => statusS1 s
  | 2 => pack [(s.cu.e, 0, 12), (s.cu.c, 16, 12)]
  | 3 => pack [(s.mu.v, 0, 12), (s.cu.g, 16, 12)]
  | 4 => statusS4 s
  | 5 => pack [(s.td.lastSeq.toNat, 0, 8), (s.td.abandoned, 8, 8), (s.td.discarded, 16, 8), (s.td.orphans, 24, 8)]
  | 6 => pack [(s.bp.misuseCount, 0, 16), (s.bp.expiryCount, 16, 16)]
  | 7 => pack [(s.fj.overflow, 0, 16), (s.am.strikes.length, 16, 4), (s.bp.lastMisuse.toNat, 20, 12)]
  | 8 => statusS8 s
  | 9 => summaryWord s
  | 10 => s.msCounter
  | 11 => pack [(s.cu.em[0], 0, 12), (s.cu.em[1], 16, 12)]
  | 12 => pack [(s.cu.em[2], 0, 12), (s.cu.em[3], 16, 12)]
  | 13 => pack [(s.cu.em[4], 0, 12), (s.cu.em[5], 16, 12)]
  | 14 => pack [(s.cu.em[6], 0, 12), (s.cu.em[7], 16, 12)]
  | _ => statusS15 s

/-! ### Reads (R181, R185, R190) -/

/-- A control processor read of S0: the reply carries both flags as they stand, and then both clear (R165). -/
def readS0 (transaction : BitVec 4) (s : State) : State :=
  ((s.setFj { s.fj with attention := false }).setBp { s.bp with expiryFlag := false }).reply .cp transaction (statusS0 s)

/-- CP_S0_READ (R165). During reset the read is forwarded (R191). -/
def execCpS0Read (transaction : BitVec 4) (s : State) : Host.Outcome State Fault Refusal :=
  if s.pins.resetAsserted then .next (s.forwardRead .cp transaction (regionAddress s s0Offset))
  else .next (readS0 transaction s)

/-- The word a read that changes no state is answered with, for an area the part serves (R147, R178, R185, R196). -/
def servedWord (s : State) : Area → Option Word
  | .effectiveView x => some (effectiveView s.lt.effective x)
  | .request _ => some 0
  | .status n => some (statusWord s n)
  | .captureStatus => some (captureStatusWord s.cap)
  | .plain => none
  | .setpoint _ => none
  | .telemetry _ => none
  | .limitA _ => none
  | .limitB _ => none
  | .limitOne _ => none
  | .ownership => none
  | .headWindow _ => none
  | .captureStart => none
  | .captureContinue => none

/-- A read of a region offset outside reset (10, section 10.2). -/
def regionRead (m : Master) (area : Area) (a : Address) (transaction : BitVec 4) (s : State) : State :=
  match area, m with
  | .setpoint w, .dl => driveLinkRead w transaction s
  | .ownership, _ => (s.setFj (s.fj.readOwnership m).2).reply m transaction (s.fj.readOwnership m).1
  | .headWindow w, _ => (s.setFj (s.fj.readWindow m w).2).reply m transaction (s.fj.readWindow m w).1
  | .captureStart, _ => (s.setCap (s.cap.readStart m).2).reply m transaction (s.cap.readStart m).1
  | .captureContinue, _ => (s.setCap (s.cap.readContinue m).2).reply m transaction (s.cap.readContinue m).1
  | .status 0, .cp => readS0 transaction s
  | area, _ =>
    match servedWord s area with
    | some w => s.reply m transaction w
    | none => s.forwardRead m transaction a

/-- Any read by any master of any address: what the part does with it and answers (R181, R185, R191). -/
def busRead (m : Master) (a : Address) (transaction : BitVec 4) (s : State) : State :=
  match regionOffset s a with
  | none => s.forwardRead m transaction a
  | some off =>
    if s.pins.resetAsserted then
      match areaOf off, m with
      | .setpoint _, .dl => s.reply m transaction 0
      | _, _ => s.forwardRead m transaction a
    else regionRead m (areaOf off) a transaction s

/-! ### Writes (R181 to R189) -/

/-- A write to a region offset outside reset (10, section 10.2). -/
def regionWrite (m : Master) (off : Nat) (a : Address) (lanes : Lanes) (w : Word) (s : State) : State :=
  match areaOf off with
  | .plain => s.forwardWrite a lanes w
  | .setpoint _ => s.forwardWrite a lanes w
  | .telemetry slot => telemetryWrite m lanes slot w s
  | .limitA e => limitWriteA m lanes e w s
  | .limitB e => limitWriteB m lanes e w s
  | .limitOne e => limitWriteOne m lanes e w s
  | .request .restart => takeRequest .restart m lanes w (judgeRestart m) s
  | .request .stop => takeRequest .stop m lanes w (judgeStop m) s
  | .request .readmit => takeRequest .readmit m lanes w (judgeReadmit w) s
  | .request .strikeClear => takeRequest .strikeClear m lanes w judgeStrikeClear s
  | .request .journalClear => takeRequest .journalClear m lanes w (judgeJournalClear m) s
  | .request .ownershipClear => takeRequest .ownershipClear m lanes w (judgeOwnershipClear m) s
  | .request .captureArm => takeRequest .captureArm m lanes w (judgeCaptureArm w) s
  | .request .captureStop => takeRequest .captureStop m lanes w judgeCaptureStop s
  | .ownership => ownershipWrite m lanes w s
  | .effectiveView _ => s.misuse off
  | .status _ => s.misuse off
  | .headWindow _ => s.misuse off
  | .captureStart => s.misuse off
  | .captureContinue => s.misuse off
  | .captureStatus => s.misuse off

/-- Any write by any master to any address: forwarded outside the region and during reset, else treated by its area
(R181, R183, R184, R186, R191). -/
def busWrite (m : Master) (a : Address) (lanes : Lanes) (w : Word) (s : State) : State :=
  if s.pins.resetAsserted then s.forwardWrite a lanes w
  else
    match regionOffset s a with
    | none => s.forwardWrite a lanes w
    | some off => regionWrite m off a lanes w s

/-- ABSORBED_WRITE (R186): a write access, treated as Chapter 10 states whatever its address (log entry 12). -/
def execAbsorbedWrite (master : Master) (address : Address) (lanes : Lanes) (value : Word) (s : State) :
    Host.Outcome State Fault Refusal :=
  .next (busWrite master address lanes value s)

end Sys2Proof.Machine
end

