-- ==== Sys2Proof/Machine/Completion.lean ====
section
/-! DEFINITION. An evaluation's completion: results adopted, ceilings published, records journalled, demands entered, the
frame record appended, held reads released, and a pending snapshot started (R14). -/

namespace Sys2Proof.Machine

/-! ### Derating Unit (R26, R30 to R34) -/

/-- A thermal channel's record with its new fraction; the derate-open flag is set exactly below 4096 (R32, R33). -/
def adoptFraction (f : Nat) (r : ChannelRecord) : ChannelRecord :=
  { r with fraction := f, derateOpen := decide (f < Config.fullFraction) }

/-- The channel records with the new fractions of channels 18 to 28. -/
def adoptFractions (ev : Evaluation) (channels : Vector ChannelRecord 30) : Vector ChannelRecord 30 :=
  Vector.ofFn fun c =>
    if h : 18 ≤ c.val ∧ c.val < 29 then adoptFraction ev.fractions[c.val - 18] channels[c] else channels[c]

/-- The Derating Unit with the evaluation's results (R26). -/
def adoptDerating (ev : Evaluation) : DeratingUnit where
  thermal := ev.thermal
  hot := ev.hot
  flowCounter := ev.flowCounter
  cooling := ev.cooling

/-! ### Mismatch Unit (R48, R51, R54 to R63) -/

/-- V after an outcome (R51). -/
def applyVOutcome (o : VOutcome) (rise v : Nat) : Nat :=
  match o with
  | .fold k => min v k
  | .rise => min Config.fullDrive (v + rise)
  | .hold => v

/-- The output persistence counter raised by a completion, before the comparison with VSWR_PERSIST (R56). -/
def raisedOutput (ev : Evaluation) (run : Bool) (n : Nat) : Nat := if run && ev.outputTest then n + 1 else 0

/-- The completion raises a MISMATCH demand (R56). -/
def mismatchDemand (ev : Evaluation) (run : Bool) (n : Nat) : Bool :=
  run && ev.outputTest && decide (ev.vswrPersist ≤ raisedOutput ev run n)

/-- A module persistence counter after a completion (R58). -/
def newModuleCounter (ev : Evaluation) (run : Bool) (m : Fin 8) (n : Nat) : Nat :=
  if run && ev.moduleTests[m] then countUp 15 n else 0

/-- A module's entry after a completion: HOT and SENSOR as found, MISMATCH entered at MODPERSIST, and a non-empty cause
set gates (R59, R61, R62). -/
def newAdmission (ev : Evaluation) (m : Fin 8) (counter : Nat) (a : Admission) : Admission :=
  let mismatch := a.mismatch || decide (ev.modPersist ≤ counter)
  { gated := a.gated || ev.hot[m] || mismatch || ev.sensorCauses[m]
    hot := ev.hot[m]
    mismatch := mismatch
    sensor := ev.sensorCauses[m] }

/-- The Mismatch Unit with the evaluation's outcomes applied to its state as it stands (R48). -/
def adoptMismatch (ev : Evaluation) (run : Bool) (u : MismatchUnit) : MismatchUnit :=
  let v := applyVOutcome ev.vOutcome ev.rise u.v
  let counters : Vector Nat 8 := Vector.ofFn fun m => newModuleCounter ev run m u.moduleCounters[m]
  { v := v
    foldbackOpen := decide (v < Config.fullDrive)
    outputCounter := if mismatchDemand ev run u.outputCounter then 0 else raisedOutput ev run u.outputCounter
    moduleCounters := counters
    admission := Vector.ofFn fun m => newAdmission ev m counters[m] u.admission[m] }

/-! ### Ceiling Unit (R72 to R76) -/

/-- A ceiling for a fraction: floor(4095 F / 4096) (R72, R74). -/
def fractionCeiling (f : Nat) : Nat := Config.fullDrive * f / 4096

/-- The global thermal ceiling, from the smallest fraction of CLIN, CLOUT and FILT (R72). -/
def globalCeiling (fractions : Vector Nat 11) : Nat :=
  fractionCeiling (min fractions[8] (min fractions[9] fractions[10]))

/-- A module ceiling (R74). -/
def moduleCeiling (fractions : Vector Nat 11) (a : Admission) (m : Fin 8) : Nat :=
  if a.gated then 0 else fractionCeiling fractions[hskIndex m]

/-- An enforced ceiling's move: down at once, up by at most the rise step, 0 where drive is off (R75, R76). -/
def slew (on : Bool) (rise ceiling enforced : Nat) : Nat :=
  if on then (if ceiling ≤ enforced then ceiling else min ceiling (enforced + rise)) else 0

/-- The Ceiling Unit after a completion, the in-flight flag clear (R71 to R76). -/
def adoptCeilings (ev : Evaluation) (run : Bool) (mu : MismatchUnit) (u : CeilingUnit) : CeilingUnit :=
  let g := globalCeiling ev.fractions
  let c := min g mu.v
  let cm : Vector Nat 8 := Vector.ofFn fun m => moduleCeiling ev.fractions mu.admission[m] m
  { g := g
    c := c
    e := slew run ev.rise c u.e
    cm := cm
    em := Vector.ofFn fun m => slew (run && !mu.admission[m].gated) ev.rise cm[m] u.em[m]
    evaluation := none }

/-! ### Records (R23, R34, R54, R55, R62, R154) -/

/-- A CHANNEL_FAILED or CHANNEL_RESTORED record (R21, R22). -/
def journalChannel (s : State) (x : ChannelEvent) : State :=
  addRecord (newRecord s (if x.restored then .channelRestored else .channelFailed) x.channel.val x.value) s

/-- A DERATE open or close of a thermal channel, from its flag before (R32, R33). -/
def journalDerate (ev : Evaluation) (before : Vector ChannelRecord 30) (s : State) (k : Fin 11) : State :=
  let c := (thermalChannel k).val
  if ev.fractions[k] < Config.fullFraction then
    if before[thermalChannel k].derateOpen then s else openRecord .derate c ev.fractions[k] s
  else if before[thermalChannel k].derateOpen then closeRecord .derate c Config.fullFraction s
  else s

/-- The FOLDBACK open or close, from the flag before and the new V (R54, R55). -/
def journalFoldback (before : Bool) (v : Nat) (s : State) : State :=
  if v < Config.fullDrive then (if before then s else openRecord .foldback 0 v s)
  else if before then closeRecord .foldback 0 Config.fullDrive s
  else s

/-- The modules gated by a completion, in ascending number (R62). -/
def newlyGated (before after : Vector Admission 8) : List (Fin 8) :=
  (List.finRange 8).filter fun m => after[m].gated && !before[m].gated

/-- A MODULE_GATED record (R62). -/
def journalGated (after : Vector Admission 8) (s : State) (m : Fin 8) : State :=
  addRecord (newRecord s .moduleGated m.val (causeSetCode after[m])) s

/-- The records of one evaluation, in the order of R154, from the records and the Mismatch Unit before it. -/
def journalEvaluation (ev : Evaluation) (channels : Vector ChannelRecord 30) (mu : MismatchUnit) (s : State) : State :=
  let s1 := ev.channelEvents.foldl journalChannel s
  let s2 := (List.finRange 11).foldl (journalDerate ev channels) s1
  let s3 := journalFoldback mu.foldbackOpen s.mu.v s2
  (newlyGated mu.admission s.mu.admission).foldl (journalGated s.mu.admission) s3

/-! ### Demands (R118) -/

/-- The demands of a completion in their order, from the state after the units' results were adopted (R25, R38, R41, R56,
R63, R118). -/
def completionDemands (ev : Evaluation) (mismatch : Bool) (s : State) : List TripKind :=
  (if sensorCondition s.td.channels then [.sensor] else []) ++ (if s.du.thermal then [.thermal] else []) ++
    (if s.du.cooling then [.cooling] else []) ++ (if mismatch then [.mismatch] else []) ++
    (if ev.gateLimit < s.mu.gatedCount then [.modules] else [])

/-! ### The completion -/

/-- The units' results adopted together (R14, R26, R48, R70). -/
def adoptResults (ev : Evaluation) (s : State) : State :=
  let run := s.sq.state == .run
  let mu := adoptMismatch ev run s.mu
  (((s.setTd { s.td with channels := adoptFractions ev s.td.channels }).setDu (adoptDerating ev)).setMu mu).setCu
    (adoptCeilings ev run mu s.cu)

/-- The completion's frame record appended, from the state the completion left (R171, R172). -/
def appendFrame (ev : Evaluation) (s : State) : State :=
  s.setCap (s.cap.append (frameRecord s.cap.pattern ev.snapshot.seq s.sq.state s.cu.e s.td.channels))

/-- A pending snapshot, if one is held, begins the next evaluation (R13). -/
def startPending (s : State) : State :=
  match s.td.pendingSnapshot with
  | none => s
  | some n => startEvaluation n (s.setTd { s.td with pendingSnapshot := none })

/-- The results adopted, and the evaluation's records added (R14, R154). -/
def journalCompletion (ev : Evaluation) (s : State) : State :=
  journalEvaluation ev s.td.channels s.mu (adoptResults ev s)

/-- The demands of a completion, from the state it finds and the results it adopts (R118). -/
def demandsOf (ev : Evaluation) (s : State) : List TripKind :=
  completionDemands ev (mismatchDemand ev (s.sq.state == .run) s.mu.outputCounter) (adoptResults ev s)

/-- The demands entered after the records, and then the auto-restart check made (R118, R119, R127). -/
def settleCompletion (ev : Evaluation) (s : State) : State :=
  autoRestart (tripDemands (demandsOf ev s) (journalCompletion ev s))

/-- The completion of an evaluation (R14; the order inside it is log entry 23). -/
def completeEvaluation (ev : Evaluation) (s : State) : State :=
  startPending (releaseReads (appendFrame ev (settleCompletion ev s)))

/-- EVALUATION_COMPLETION (R14); with no evaluation in flight there is none to complete (log entry 5). -/
def execEvaluationCompletion (s : State) : Host.Outcome State Fault Refusal :=
  match s.cu.evaluation with
  | none => .next s
  | some ev => .next (completeEvaluation ev s)

end Sys2Proof.Machine
end

