-- ==== Sys2Proof/Machine/Reset.lean ====
section
/-! DEFINITION. Reset: its assertion and its release (R191, R192, and each block's own rules). -/

namespace Sys2Proof.Machine

/-- What a held read is answered with at the assertion: the memory word with 0 in its drive or trim field and its other
bits as read, or 0 as its gate word (R88, R191, R194; log entry 14). -/
def zeroedWord (w : Setpoint) (s : State) : Word :=
  match w with
  | .gate _ => 0
  | .exciter => withLowHalf (s.mem.readWord (regionAddress s (setpointOffset w))) 0
  | .trim _ => withLowHalf (s.mem.readWord (regionAddress s (setpointOffset w))) 0

/-- The replies to the held reads at the assertion, in order of arrival (R88, R191). -/
def resetReplies (s : State) : List Reply :=
  s.bp.heldReads.map fun h => { master := .dl, transaction := h.transaction, data := zeroedWord h.word s }

/-- The part while reset is asserted: every block at its reset values, the lines and memory as they stand. -/
def holdInReset (straps : BitVec 8) (s : State) : State :=
  { State.reset with
    pins := { s.pins with resetAsserted := true, straps := straps }
    mem := s.mem
    replies := s.replies ++ resetReplies s
    pending := s.pending }

/-- RESET_ASSERT (R191): any evaluation ends without completion, held reads are answered with a zero field, and every
block takes its reset values. Asserted again it only brings the strap levels up to date (log entry 16). -/
def execResetAssert (straps : BitVec 8) (s : State) : Host.Outcome State Fault Refusal :=
  .next (holdInReset straps s)

/-- An arc input at reset release: a line asserted then is taken as asserting at that instant (R102). -/
def releasedInput (line : Bool) (x : ArcInput) : ArcInput :=
  if line then { x with filter := x.filter.onAssert } else x

/-- RESET_RELEASE (R192): the straps are sampled into the region base, each filter takes its line, and telemetry is lost.
With reset not asserted there is no release (log entry 16). -/
def execResetRelease (straps : BitVec 8) (s : State) : Host.Outcome State Fault Refusal :=
  if s.pins.resetAsserted then
    .next { s with
      pins := { s.pins with resetAsserted := false, straps := straps }
      bp := { s.bp with regionBase := straps }
      td := { s.td with telemetryLost := true }
      am := { s.am with inputs := Vector.ofFn fun i => releasedInput s.pins.arcLines[i] s.am.inputs[i] } }
  else .next s

end Sys2Proof.Machine
end

