-- ==== Sys2Proof/Machine/Dispatch.lean ====
section
/-! DEFINITION. One arm for each command: its meaning. -/

namespace Sys2Proof.Machine

/-- The command's effect on everything but the queue. -/
def exec (i : Instr) (s : State) : Host.Outcome State Fault Refusal :=
  match i with
  | .frameHeaderWrite word => Sys2Proof.Machine.execFrameHeaderWrite word s
  | .dataSlotWrite slot word => Sys2Proof.Machine.execDataSlotWrite slot word s
  | .frameEnd word => Sys2Proof.Machine.execFrameEnd word s
  | .frameTimeoutExpiry => Sys2Proof.Machine.execFrameTimeoutExpiry s
  | .evaluationCompletion => Sys2Proof.Machine.execEvaluationCompletion s
  | .limitWordAWrite master entry word => Sys2Proof.Machine.execLimitWordAWrite master entry word s
  | .limitWordBWrite master entry word => Sys2Proof.Machine.execLimitWordBWrite master entry word s
  | .limitOneWordWrite master entry word => Sys2Proof.Machine.execLimitOneWordWrite master entry word s
  | .dlExciterDriveRead transaction => Sys2Proof.Machine.execDlExciterDriveRead transaction s
  | .dlTrimRead m transaction => Sys2Proof.Machine.execDlTrimRead m transaction s
  | .dlGateRead m transaction => Sys2Proof.Machine.execDlGateRead m transaction s
  | .holdOffExpiry => Sys2Proof.Machine.execHoldOffExpiry s
  | .arcLineAssert input => Sys2Proof.Machine.execArcLineAssert input s
  | .arcLineDeassert input => Sys2Proof.Machine.execArcLineDeassert input s
  | .arcQualifyExpiry input => Sys2Proof.Machine.execArcQualifyExpiry input s
  | .arcReleaseExpiry input => Sys2Proof.Machine.execArcReleaseExpiry input s
  | .stuckTimerExpiry input => Sys2Proof.Machine.execStuckTimerExpiry input s
  | .strikeEntryAgeing => Sys2Proof.Machine.execStrikeEntryAgeing s
  | .interlockOpen => Sys2Proof.Machine.execInterlockOpen s
  | .interlockClose => Sys2Proof.Machine.execInterlockClose s
  | .settleExpiry => Sys2Proof.Machine.execSettleExpiry s
  | .quenchExpiry => Sys2Proof.Machine.execQuenchExpiry s
  | .dischargeExpiry => Sys2Proof.Machine.execDischargeExpiry s
  | .restart master lanes value => Sys2Proof.Machine.execRestart master lanes value s
  | .stop master lanes value => Sys2Proof.Machine.execStop master lanes value s
  | .readmit master lanes value => Sys2Proof.Machine.execReadmit master lanes value s
  | .strikeClear master lanes value => Sys2Proof.Machine.execStrikeClear master lanes value s
  | .journalClear master lanes value => Sys2Proof.Machine.execJournalClear master lanes value s
  | .ownershipClear master lanes value => Sys2Proof.Machine.execOwnershipClear master lanes value s
  | .captureArm master lanes value => Sys2Proof.Machine.execCaptureArm master lanes value s
  | .captureStop master lanes value => Sys2Proof.Machine.execCaptureStop master lanes value s
  | .ownershipWordRead master transaction => Sys2Proof.Machine.execOwnershipWordRead master transaction s
  | .ownershipWordWrite master lanes value => Sys2Proof.Machine.execOwnershipWordWrite master lanes value s
  | .headWindowWord0Read master transaction => Sys2Proof.Machine.execHeadWindowWord0Read master transaction s
  | .headWindowWordRead master word transaction => Sys2Proof.Machine.execHeadWindowWordRead master word transaction s
  | .cpS0Read transaction => Sys2Proof.Machine.execCpS0Read transaction s
  | .captureStartAliasRead master transaction => Sys2Proof.Machine.execCaptureStartAliasRead master transaction s
  | .captureContinueAliasRead master transaction => Sys2Proof.Machine.execCaptureContinueAliasRead master transaction s
  | .absorbedWrite master address lanes value => Sys2Proof.Machine.execAbsorbedWrite master address lanes value s
  | .resetAssert straps => Sys2Proof.Machine.execResetAssert straps s
  | .resetRelease straps => Sys2Proof.Machine.execResetRelease straps s
  | .millisecondCounterTick => Sys2Proof.Machine.execMillisecondCounterTick s

end Sys2Proof.Machine
end

