-- ==== Sys2Proof/Safety.lean ====
section
/-! DEFINITION. What is safe: the standing facts the spec states about every moment of the part's operation, each as a
predicate of one state, and the vocabulary the statements share. -/

namespace Sys2Proof

/-- The masters that may write limits and make requests: the control processor and the service port (R131, R187). -/
def Master.commands : Master → Prop
  | .cp => True
  | .sp => True
  | .ts => False
  | .dl => False

end Sys2Proof

namespace Sys2Proof.Machine

/-! ### Standing facts -/

/-- The drive is bounded: V lies in 0..4095 (R51), E never exceeds C and E_m never exceeds C_m (R75, R76), E and every E_m
are 0 outside RUN (R77), a GATED module has E_m 0 (R81), and the sequencer is in OFF during reset (R129). -/
def DriveBounded (s : State) : Prop :=
  s.mu.v ≤ Config.fullDrive ∧ s.cu.c ≤ Config.fullDrive ∧ s.cu.e ≤ s.cu.c ∧
  (∀ m : Fin 8, s.cu.em[m] ≤ s.cu.cm[m]) ∧
  (s.sq.state ≠ .run → s.cu.e = 0 ∧ ∀ m : Fin 8, s.cu.em[m] = 0) ∧
  (∀ m : Fin 8, s.mu.admission[m].gated = true → s.cu.em[m] = 0) ∧
  (s.pins.resetAsserted = true → s.sq.state = .off)

/-- The trip cause holder: non-empty exactly in TRIPPED and in DISCHARGE with destination TRIPPED, at most 4 secondary
causes, none repeating another or the primary (R116); the destination is held in DISCHARGE alone (R107). -/
def HolderSound (q : Sequencer) : Prop :=
  (q.primary.isSome = true ↔ q.state = .tripped ∨ (q.state = .discharge ∧ q.destination = .tripped)) ∧
  (q.primary = none → q.secondary = []) ∧
  q.secondary.length ≤ Config.secondaryCapacity ∧ q.secondary.Nodup ∧ (∀ k ∈ q.secondary, q.primary ≠ some k) ∧
  (q.destination = .empty ↔ q.state ≠ .discharge)

/-- Each interval timer runs in its own state alone (R109), and the waiting flag is one of SETTLE and MUTE (R107). -/
def TimersSound (q : Sequencer) : Prop :=
  (q.settleTimer.isSome = true → q.state = .settle) ∧ (q.quenchTimer.isSome = true → q.state = .mute) ∧
  (q.dischargeTimer.isSome = true ↔ q.state = .discharge) ∧
  (q.waiting = true → (q.state = .settle ∧ q.settleTimer = none) ∨ (q.state = .mute ∧ q.quenchTimer = none))

/-- How many additions ago a record was numbered, reckoned from the next-sequence counter: 0 for the last one. -/
def FaultJournal.additionsSince (j : FaultJournal) (r : Record) : Nat := (j.nextSeq - 1 - r.seq).toNat

/-- The journal's list: at most 64 records, in order of their sequence assignment, no two with the same number (R150), none
of kind NONE (R152); a read latch whose held mark is set holds a copy of the oldest held record (R162). -/
def JournalSound (j : FaultJournal) : Prop :=
  j.records.length ≤ Config.journalCapacity ∧
  j.records.Pairwise (fun x y => j.additionsSince y < j.additionsSince x) ∧
  (∀ r ∈ j.records, r.kind ≠ .none) ∧
  (∀ m : Fin 4, ∀ l ∈ j.readLatches[m], l.held = true → j.records.head?.map Record.seq = some l.copy.seq)

/-- The capture: the sizes that the latched pattern settles (R170), at most N records of r words each (R171), the post count
(R175, R176) and the cursors within the capture (R177). -/
def CaptureSound (c : CaptureUnit) : Prop :=
  c.recordSize = 1 + ((patternChannels c.pattern).length + 1) / 2 ∧ c.capacity = Config.captureWords / c.recordSize ∧
  c.ring.length ≤ c.capacity ∧ (∀ f ∈ c.ring, f.words.length = c.recordSize) ∧
  c.postCount ≤ c.capacity - 1 ∧ c.postRemaining ≤ c.postCount ∧
  (c.state = .post → 1 ≤ c.postRemaining ∧ c.preTrigger + (c.postCount - c.postRemaining) = c.ring.length) ∧
  (c.state = .frozen → c.postRemaining = 0 ∧ c.preTrigger + c.postCount = c.ring.length) ∧
  (c.state = .armed → c.preTrigger = 0 ∧ c.postRemaining = 0) ∧
  (c.state ≠ .frozen → c.cursorCp = 0 ∧ c.cursorSp = 0) ∧
  c.cursorCp ≤ c.words.length ∧ c.cursorSp ≤ c.words.length

/-- Held reads and pending snapshots wait for an evaluation: at most four reads are held (R84), and with no evaluation in
flight none is held and no snapshot is pending (R12, R84). -/
def WaitingSound (s : State) : Prop :=
  s.bp.heldReads.length ≤ Config.heldReadCapacity ∧
  (s.cu.evaluation = none → s.bp.heldReads = [] ∧ s.td.pendingSnapshot = none)

/-- The arc inputs: outside reset a filter follows its line, QUALIFYING or HELD exactly while the line is asserted (R91);
during reset it is IDLE (R102); the stuck timer and the stuck flag stand in HELD and RELEASING alone (R99, R100). -/
def ArcInputsSound (s : State) : Prop :=
  ∀ i : Fin 3,
    (s.pins.resetAsserted = false → (s.pins.arcLines[i] = true ↔
      s.am.inputs[i].filter = .qualifying ∨ s.am.inputs[i].filter = .held)) ∧
    (s.pins.resetAsserted = true → s.am.inputs[i].filter = .idle) ∧
    (s.am.inputs[i].stuckTimer.isSome = true ∨ s.am.inputs[i].stuck = true → s.am.inputs[i].isHeld = true)

/-- The strike list holds at most 8 entries, and at most 7 in SETTLE, RUN and MUTE (R94): a list of 8 stands only while
ARC_LOCKOUT stands in the holder. -/
def StrikesSound (s : State) : Prop :=
  s.am.strikes.length ≤ 8 ∧ (s.am.strikes.length = 8 → s.sq.holds .arcLockout = true)

/-- Each channel record: the value of a present channel lies within the plausible range of its kind (R19), an absent
channel has value 0, counter 0 and failed flag clear (R15), the counter lies in 0..15 (R15), and the derate-open flag is
set exactly while the fraction is below 4096 (R32, R33). -/
def ChannelsSound (channels : Vector ChannelRecord 30) : Prop :=
  ∀ c : Fin 30,
    (plausibleRange c).1 ≤ channels[c].value ∧ channels[c].value ≤ (plausibleRange c).2 ∧
    (channels[c].present = false → channels[c].value = 0 ∧ channels[c].faults = 0 ∧ channels[c].failed = false) ∧
    channels[c].faults ≤ 15 ∧
    (channels[c].derateOpen = true ↔ channels[c].fraction < Config.fullFraction)

/-- The Mismatch Unit: a module whose cause set is non-empty is GATED (R47), and the foldback-open flag is set exactly while
V is below 4095 (R54, R55). -/
def MismatchSound (u : MismatchUnit) : Prop :=
  (∀ m : Fin 8, u.admission[m].noCause = false → u.admission[m].gated = true) ∧
  (u.foldbackOpen = true ↔ u.v < Config.fullDrive)

/-- A channel entry lies in the ranges of R133 as R145 clamps into them. -/
def ChannelEntry.inRange (e : ChannelEntry) : Prop :=
  e.slot ≤ 31 ∧ e.offset ≤ 31 ∧ e.width ≤ 16 ∧ e.width ≤ 32 - e.offset ∧ 1 ≤ e.scale ∧ e.scale ≤ 255 ∧ e.shift ≤ 15 ∧
  -32768 ≤ e.trip ∧ e.trip ≤ 32767 ∧ (e.present = true → 1 ≤ e.slot ∧ e.slot ≤ 30 ∧ 1 ≤ e.width)

/-- The general entries lie in the ranges of R135. -/
def General.inRange (g : General) : Prop :=
  g.prlim ≤ 30000 ∧ g.pfmin ≤ 30000 ∧ (1 ≤ g.rho2trip ∧ g.rho2trip ≤ 4096) ∧ (1 ≤ g.vswrPersist ∧ g.vswrPersist ≤ 255) ∧
  (1 ≤ g.rho2mod ∧ g.rho2mod ≤ 4096) ∧ (1 ≤ g.modPersist ∧ g.modPersist ≤ 15) ∧ g.modFmin ≤ 4000 ∧
  (1 ≤ g.rise ∧ g.rise ≤ 4095) ∧ g.holdMax ≤ 255 ∧ g.flowMin ≤ 2000 ∧ (1 ≤ g.flowFrames ∧ g.flowFrames ≤ 255) ∧
  g.flowHyst ≤ 255 ∧ g.thyst ≤ 500 ∧ (1 ≤ g.fp ∧ g.fp ≤ 15) ∧ (1 ≤ g.quench ∧ g.quench ≤ 1000) ∧
  (1 ≤ g.strikeLimit ∧ g.strikeLimit ≤ 8) ∧ (1 ≤ g.window ∧ g.window ≤ 255) ∧ (10 ≤ g.settle ∧ g.settle ≤ 5000) ∧
  (10 ≤ g.discharge ∧ g.discharge ≤ 5000) ∧ (1 ≤ g.frameTimeout ∧ g.frameTimeout ≤ 255) ∧ g.gateLimit ≤ 7 ∧
  (-400 ≤ g.bModule ∧ g.bModule ≤ 1500) ∧ (-400 ≤ g.bCoolant ∧ g.bCoolant ≤ 1500) ∧
  (-400 ≤ g.bFilter ∧ g.bFilter ≤ 1500) ∧ g.attentionMask &&& 0xFFE00001 = 0 ∧ g.triggerMask &&& 0xFFE00001 = 0

/-- Every entry in effect lies in its range (R133 to R136, R145). -/
def EffectiveTable.inRange (t : EffectiveTable) : Prop :=
  (∀ c : Fin 30, t.channels[c].inRange) ∧ (∀ i : Fin 16, t.modulesCurve[i].value ≤ Config.fullFraction) ∧
  (∀ i : Fin 16, t.coolantCurve[i].value ≤ Config.fullFraction) ∧
  (∀ i : Fin 16, t.filterCurve[i].value ≤ Config.fullFraction) ∧
  (∀ f : Fin 64, t.fine[f] ≤ Config.fullFraction) ∧ t.general.inRange

/-! ### Vocabulary of the statements -/

/-- The part is out of reset. -/
def State.operating (s : State) : Prop := s.pins.resetAsserted = false

/-- The supply is up and RF may be present: SETTLE, RUN or MUTE (R93, R117). -/
def SeqState.live : SeqState → Prop
  | .settle => True
  | .run => True
  | .mute => True
  | .off => False
  | .discharge => False
  | .tripped => False

/-- A word stored whole at an offset: it reads back there, and every byte outside it reads as before. -/
def StoresWord (s t : State) (offset : Nat) (w : Word) : Prop :=
  t.mem.readWord (regionAddress s offset) = w ∧
  ∀ k : Nat, ¬ (laneAddress (regionAddress s offset) 0 ≤ k ∧ k ≤ laneAddress (regionAddress s offset) 3) →
    t.mem.readByte k = s.mem.readByte k

/-- The enabled lanes of a word stored at an address: each enabled lane reads as its byte of the word, each other lane and
every byte outside the word as before. -/
def StoresLanes (s t : State) (a : Address) (lanes : Lanes) (w : Word) : Prop :=
  (∀ i : Fin 4, t.mem.readByte (laneAddress a i.val) =
    if lanes.getLsbD i.val then laneByte w i.val else s.mem.readByte (laneAddress a i.val)) ∧
  ∀ k : Nat, ¬ (laneAddress a 0 ≤ k ∧ k ≤ laneAddress a 3) → t.mem.readByte k = s.mem.readByte k

/-- The raw value of an entry's field in a slot word: the field's bits as an unsigned number, or in two's complement (R17). -/
def rawReading (e : ChannelEntry) (signed : Bool) (w : Word) : Int :=
  if signed = true ∧ 2 ^ (e.width - 1) ≤ w.toNat / 2 ^ e.offset % 2 ^ e.width then
    ((w.toNat / 2 ^ e.offset % 2 ^ e.width : Nat) : Int) - 2 ^ e.width
  else ((w.toNat / 2 ^ e.offset % 2 ^ e.width : Nat) : Int)

/-- A record of this moment: the counter and the sequencer state as they stand, every flag clear, extra word 0 (R151). -/
def eventRecord (s : State) (kind : RecordKind) (source : Nat) (value : Int) : Record where
  seq := 0
  kind := kind
  source := source
  timestamp := s.msCounter
  value := value
  repeats := 1
  seqState := s.sq.state
  openFlag := false
  closedFlag := false
  automatic := false
  noRf := false
  extra := 0

/-- The state with a record added to its journal and the Capture Unit told of it (R153): what an addition does to the two
units is stated of `FaultJournal.add` and `CaptureUnit.notify` by themselves. -/
def State.journalled (s : State) (r : Record) : State :=
  { s with
    fj := s.fj.add s.lt.effective.general.attentionMask r
    cap := s.cap.notify s.lt.effective.general.triggerMask r.kind }

/-- The state with the sequencer entered in a state: that state's timer set to expire a full length from now, the others
stopped, the waiting flag clear (R109), and E and every E_m at 0 (R77). -/
def State.entered (s : State) (st : SeqState) (destination : Destination) : State :=
  { s with
    sq := { s.sq with
      state := st
      destination := destination
      settleTimer := if st = .settle then some (s.msCounter + BitVec.ofNat 32 s.lt.effective.general.settle) else none
      quenchTimer := if st = .mute then some (s.msCounter + BitVec.ofNat 32 s.lt.effective.general.quench) else none
      dischargeTimer :=
        if st = .discharge then some (s.msCounter + BitVec.ofNat 32 s.lt.effective.general.discharge) else none
      waiting := false }
    cu := { s.cu with e := 0, em := Vector.replicate 8 0 } }

/-- The state after a trip from SETTLE, RUN or MUTE: the kind is the primary cause, DISCHARGE toward TRIPPED is entered, and
a TRIP record with value 0 and the state found is added (R117, R119). -/
def State.trippedOn (s : State) (k : TripKind) : State :=
  (State.entered { s with sq := { s.sq with primary := some k, secondary := [] } } .discharge .tripped).journalled
    (eventRecord s (.trip k) 0 0)

/-- The state with S4 written (R187). -/
def State.answered (s : State) (r : Request) (m : Master) (result : RequestResult) : State :=
  { s with bp := { s.bp with lastRequest := some { request := r, master := m, result := result } } }

/-- The state with one misuse counted at an offset (R189). -/
def State.misused (s : State) (offset : Nat) : State :=
  { s with bp := { s.bp with
      misuseCount := min (s.bp.misuseCount + 1) 65535, lastMisuse := BitVec.ofNat 12 offset } }

/-- The state with one more reply given (R190). -/
def State.replied (s : State) (m : Master) (transaction : BitVec 4) (data : Word) : State :=
  { s with replies := s.replies ++ [{ master := m, transaction := transaction, data := data }] }

/-- A record refreshed from its effective entry: the three flags are the entry's; a record that changes presence starts from
value 0, counter 0 and failed flag clear, and any other keeps them (R15). -/
def ChannelRecord.RefreshedFrom (after : ChannelRecord) (e : ChannelEntry) (before : ChannelRecord) : Prop :=
  after.present = e.present ∧ after.required = e.required ∧ after.signed = e.signed ∧
  (before.present ≠ e.present → after.value = 0 ∧ after.faults = 0 ∧ after.failed = false) ∧
  (before.present = e.present → after.value = before.value ∧ after.faults = before.faults ∧ after.failed = before.failed)

/-- The channel records after a table took effect outside an evaluation: each refreshed, and one made absent takes fraction
4096 with its derate-open flag clear at that moment, while any other keeps both (R15, R31). -/
def RefreshedAtOnce (t : EffectiveTable) (before after : Vector ChannelRecord 30) : Prop :=
  ∀ c : Fin 30, after[c].RefreshedFrom t.channels[c] before[c] ∧
    (before[c].present = true ∧ t.channels[c].present = false → after[c].fraction = 4096 ∧ after[c].derateOpen = false) ∧
    (¬ (before[c].present = true ∧ t.channels[c].present = false) →
      after[c].fraction = before[c].fraction ∧ after[c].derateOpen = before[c].derateOpen)

/-- The state with the DERATE closes of the derated thermal channels that its table makes absent, in ascending channel index
(R31, R33; log entry 8); `before` are the channel records the table met. -/
def State.deratesClosed (s : State) (before : Vector ChannelRecord 30) : State :=
  ((List.finRange 11).filter fun k => before[thermalChannel k].present &&
      !s.lt.effective.channels[thermalChannel k].present && before[thermalChannel k].derateOpen).foldl
    (fun u k => closeRecord .derate (18 + k.val) 4096 u) s

/-- The strike list when a table takes effect: with WINDOW lowered, without the entries whose age has reached it (R98). -/
def strikesKept (now : Word) (before after : General) (strikes : List Strike) : List Strike :=
  if after.window < before.window then strikes.filter fun x => decide ((now - x.timestamp).toNat < after.window * 1000)
  else strikes

/-- The channel records an evaluation start leaves, and the events of its decoding: each record is refreshed from its entry,
its fraction and derate-open flag kept, and decoded from the snapshot (R14 to R16, R31), and the failures and restorations come
in ascending channel (R21 to R23). -/
def DecodedAtStart (t : EffectiveTable) (n : Snapshot) (before after : Vector ChannelRecord 30)
    (events : List ChannelEvent) : Prop :=
  ∃ refreshed : Vector ChannelRecord 30,
    (∀ c : Fin 30, refreshed[c].RefreshedFrom t.channels[c] before[c] ∧ refreshed[c].fraction = before[c].fraction ∧
      refreshed[c].derateOpen = before[c].derateOpen ∧
      after[c] = decodeRecord c t.channels[c] t.general.fp n refreshed[c]) ∧
    events = (List.finRange 30).filterMap (fun c =>
      if refreshed[c].failed = after[c].failed then none
      else some { channel := c, restored := refreshed[c].failed, value := after[c].value })

/-- An evaluation that began with a snapshot holds what the units computed from the table and the channels of its start, the
Derating Unit's held state and the enforced ceiling E (R14, R30, R35 to R40, R48, R50, R56, R58, R61). -/
def Evaluation.StartedFrom (ev : Evaluation) (n : Snapshot) (t : EffectiveTable) (channels : Vector ChannelRecord 30)
    (du : DeratingUnit) (e : Nat) : Prop :=
  ev.snapshot = n ∧ ev.rise = t.general.rise ∧ ev.vswrPersist = t.general.vswrPersist ∧
  ev.modPersist = t.general.modPersist ∧ ev.gateLimit = t.general.gateLimit ∧
  (∀ k : Fin 11, ev.fractions[k] =
    if channels[thermalChannel k].usable then lookup t (curveOf k) channels[thermalChannel k].value else 4096) ∧
  (∀ m : Fin 8, ev.hot[m] = newHot t channels du.hot m) ∧
  ev.thermal = newThermal t channels du.thermal ∧
  ev.flowCounter = newFlowCounter t channels du.flowCounter ∧
  ev.cooling = newCooling t channels du.cooling ev.flowCounter ∧
  ev.vOutcome = newVOutcome t channels e ∧ ev.outputTest = outputTestMet t channels ∧
  (∀ m : Fin 8, ev.moduleTests[m] = moduleTestMet t channels m) ∧
  ∀ m : Fin 8, ev.sensorCauses[m] = sensorCause channels m

/-- The channel records with the fractions of an evaluation adopted: those of the thermal channels, each with its derate-open
flag set exactly below 4096, and no other record (R26, R32, R33). -/
def FractionsAdopted (ev : Evaluation) (before after : Vector ChannelRecord 30) : Prop :=
  (∀ k : Fin 11, after[thermalChannel k] = { before[thermalChannel k] with
    fraction := ev.fractions[k], derateOpen := decide (ev.fractions[k] < 4096) }) ∧
  ∀ c : Fin 30, c.val < 18 ∨ c.val = 29 → after[c] = before[c]

/-- None of the seven restart checks fails (R122). -/
def State.restartable (s : State) : Prop :=
  s.td.telemetryLost = false ∧ sensorCondition s.td.channels = false ∧ s.pins.interlockOpen = false ∧
  (∀ i : Fin 3, s.am.inputs[i].stuck = false) ∧ s.du.thermal = false ∧ s.du.cooling = false ∧
  s.mu.admission.toList.countP (fun a => a.hot || a.sensor) ≤ s.lt.effective.general.gateLimit

/-- The auto-restart check passes: in TRIPPED, every cause is THERMAL, COOLING or INTERLOCK with its flag set, and no restart
check fails (R127). -/
def State.autoRestarts (s : State) : Prop :=
  s.sq.state = .tripped ∧
  (∀ k, s.sq.primary = some k ∨ k ∈ s.sq.secondary →
    (k = .thermal ∧ s.lt.effective.general.autoThermal = true) ∨
    (k = .cooling ∧ s.lt.effective.general.autoCooling = true) ∨
    (k = .interlock ∧ s.lt.effective.general.autoInterlock = true)) ∧
  s.restartable

/-- The Mismatch Unit after the outcomes of an evaluation were applied to it as it stood, `run` when the completion finds the
sequencer in RUN (R48, R51, R54 to R62). -/
def MismatchUnit.CompletedFrom (after : MismatchUnit) (ev : Evaluation) (run : Bool) (before : MismatchUnit) : Prop :=
  after.v = (match ev.vOutcome with
    | .fold k => min before.v k
    | .rise => min 4095 (before.v + ev.rise)
    | .hold => before.v) ∧
  after.foldbackOpen = decide (after.v < 4095) ∧
  after.outputCounter = (if run = true ∧ ev.outputTest = true then
    (if ev.vswrPersist ≤ before.outputCounter + 1 then 0 else before.outputCounter + 1) else 0) ∧
  ∀ m : Fin 8,
    after.moduleCounters[m] =
      (if run = true ∧ ev.moduleTests[m] = true then min (before.moduleCounters[m] + 1) 15 else 0) ∧
    after.admission[m].hot = ev.hot[m] ∧ after.admission[m].sensor = ev.sensorCauses[m] ∧
    after.admission[m].mismatch = (before.admission[m].mismatch || decide (ev.modPersist ≤ after.moduleCounters[m])) ∧
    after.admission[m].gated = (before.admission[m].gated || after.admission[m].hot || after.admission[m].mismatch ||
      after.admission[m].sensor)

/-- The state with the records of an evaluation in its journal, in the order of R154, each with the moment and the sequencer
state the completion finds (R151): channel failures and restorations; DERATE opens and closes in ascending channel (R32,
R33); the FOLDBACK open or close (R54, R55); the newly gated modules in ascending number with their cause sets (R62). -/
def State.evaluationRecorded (s : State) (ev : Evaluation) (v : Nat) (after : Vector Admission 8) : State :=
  let channels := ev.channelEvents.foldl (fun u x => u.journalled
    (eventRecord s (if x.restored then .channelRestored else .channelFailed) x.channel.val x.value)) s
  let derates := (List.finRange 11).foldl (fun u k =>
    if ev.fractions[k] < 4096 then
      if s.td.channels[thermalChannel k].derateOpen then u
      else u.journalled { eventRecord s .derate (18 + k.val) ev.fractions[k] with openFlag := true }
    else if s.td.channels[thermalChannel k].derateOpen then closeRecord .derate (18 + k.val) 4096 u
    else u) channels
  let foldback :=
    if v < 4095 then
      if s.mu.foldbackOpen then derates else derates.journalled { eventRecord s .foldback 0 v with openFlag := true }
    else if s.mu.foldbackOpen then closeRecord .foldback 0 4095 derates
    else derates
  ((List.finRange 8).filter fun m => after[m].gated && !s.mu.admission[m].gated).foldl (fun u m => u.journalled
    (eventRecord s .moduleGated m.val (after[m].hot.toNat + 2 * after[m].mismatch.toNat + 4 * after[m].sensor.toNat)))
    foldback

/-- The state with the records of a restart in its journal, in the order of R123: the FOLDBACK close if one is open, a
MODULE_READMITTED record for each GATED module without HOT and SENSOR in ascending number (R65, R66), and the RESTART record
with the primary cause cleared (R124). -/
def State.restartRecorded (s : State) (automatic : Bool) (tag : Nat) : State :=
  let foldback := if s.mu.foldbackOpen then closeRecord .foldback 0 4095 s else s
  let modules := (List.finRange 8).filter fun m =>
    s.mu.admission[m].gated && !s.mu.admission[m].hot && !s.mu.admission[m].sensor
  (modules.foldl (fun u m => u.journalled { eventRecord s .moduleReadmitted m.val 0 with automatic := automatic })
    foldback).journalled
    { eventRecord s .restart 0 (causeCode s.sq.primary) with automatic := automatic, extra := BitVec.ofNat 32 tag }

end Sys2Proof.Machine
end

