-- ==== Sys2Proof/Certificates/Slice0/Obligations.lean ====
section
/-! DEFINITION. The statements about the part, family by family. Every one is about `exec` or `step`, or about one of the
operations a completion is made of; none assumes a run from reset. -/

open Sys2Proof Sys2Proof.Machine

/-! ### The queue, and the standing facts -/

/-- A step takes the command at the front of the queue and runs it on the state with the queue's rest; with no command
waiting the part idles, which is the model's choice (log entry 4). -/
def Obligations.StepTakesTheFrontCommand : Prop :=
  (∀ (c : Instr) (rest : List Instr) (s : State), s.pending = c :: rest → step s = exec c { s with pending := rest }) ∧
  ∀ s : State, s.pending = [] → step s = .next s

/-- Every command answers a next state in every state, and leaves the queue as it found it. That an expiry or a completion
that cannot occur, and operands that no row admits, answer one too is the model's choice (log entries 5 and 13). -/
def Obligations.EveryCommandAnswersANextState : Prop :=
  ∀ (c : Instr) (s : State), ∃ t, exec c s = .next t ∧ t.pending = s.pending

/-- Every standing fact holds right after reset release, and every register holds the value the spec gives it then. That memory
lists nothing, and that the lines are at rest and the straps (and with them the region base) 0, is the model's choice (log
entries 2 and 3). -/
def Obligations.StandingFactsAtReset : Prop :=
  Memory.wf State.reset.mem = true ∧ DriveBounded State.reset ∧ HolderSound State.reset.sq ∧
  TimersSound State.reset.sq ∧ JournalSound State.reset.fj ∧ CaptureSound State.reset.cap ∧ WaitingSound State.reset ∧
  ArcInputsSound State.reset ∧ StrikesSound State.reset ∧ ChannelsSound State.reset.td.channels ∧
  MismatchSound State.reset.mu ∧ State.reset.lt.effective.inRange ∧
  State.reset.td = {
    frameOpen := false
    latches := Vector.replicate 30 0
    marks := Vector.replicate 30 false
    frameSeq := 0
    lastSeq := 0
    frameSeen := false
    abandoned := 0
    discarded := 0
    orphans := 0
    pendingSnapshot := none
    frameTimer := none
    telemetryLost := true
    channels := State.reset.td.channels } ∧
  (∀ c : Fin 30, State.reset.td.channels[c] = {
    value := 0
    faults := 0
    failed := false
    present := false
    required := true
    signed := false
    fraction := State.reset.td.channels[c].fraction
    derateOpen := State.reset.td.channels[c].derateOpen }) ∧
  (∀ c : Fin 30, 18 ≤ c.val → c.val ≤ 28 →
    State.reset.td.channels[c].fraction = 4096 ∧ State.reset.td.channels[c].derateOpen = false) ∧
  (∀ c : Fin 30, State.reset.lt.effective.channels[c] = {
    slot := 0
    offset := 0
    width := 0
    signed := false
    present := false
    required := true
    scale := 1
    shift := 0
    trip := if 18 ≤ c.val ∧ c.val ≤ 28 then 850 else 0 }) ∧
  (∀ i : Fin 16,
    State.reset.lt.effective.modulesCurve[i] = { refined := false, value := 4096, block := 0 } ∧
    State.reset.lt.effective.coolantCurve[i] = { refined := false, value := 4096, block := 0 } ∧
    State.reset.lt.effective.filterCurve[i] = { refined := false, value := 4096, block := 0 }) ∧
  (∀ f : Fin 64, State.reset.lt.effective.fine[f] = 4096) ∧
  (∀ n : Fin 32, State.reset.lt.effective.summary[n] = { mapped := false, bit := 0, sense := false }) ∧
  State.reset.lt.effective.general = {
    prlim := 200
    pfmin := 500
    rho2trip := 164
    vswrPersist := 3
    rho2mod := 410
    modPersist := 5
    modFmin := 50
    rise := 16
    holdMax := 40
    flowMin := 300
    flowFrames := 20
    flowHyst := 20
    thyst := 50
    fp := 3
    quench := 100
    strikeLimit := 4
    window := 60
    settle := 500
    discharge := 500
    frameTimeout := 10
    autoThermal := false
    autoCooling := false
    autoInterlock := false
    gateLimit := 2
    bModule := 500
    bCoolant := 300
    bFilter := 400
    attentionMask := 0x000003FE
    triggerMask := 0x000007FE
    pattern := 0 } ∧
  State.reset.lt.pendingSet = {
    channels := Vector.replicate 30 none
    general := Vector.replicate 13 none
    modulesCurve := Vector.replicate 16 none
    coolantCurve := Vector.replicate 16 none
    filterCurve := Vector.replicate 16 none
    fine := Vector.replicate 64 none
    summary := Vector.replicate 32 none } ∧
  State.reset.du = { thermal := false, hot := Vector.replicate 8 false, flowCounter := 0, cooling := false } ∧
  State.reset.mu = {
    v := 4095
    foldbackOpen := false
    outputCounter := 0
    moduleCounters := Vector.replicate 8 0
    admission := Vector.replicate 8 { gated := false, hot := false, mismatch := false, sensor := false } } ∧
  State.reset.cu = {
    g := 4095
    c := 4095
    e := 0
    cm := Vector.replicate 8 4095
    em := Vector.replicate 8 0
    evaluation := none } ∧
  State.reset.am = {
    inputs := Vector.replicate 3 { filter := .idle, stuckTimer := none, stuck := false }
    strikes := [] } ∧
  State.reset.sq = {
    state := .off
    destination := .empty
    settleTimer := none
    quenchTimer := none
    dischargeTimer := none
    waiting := false
    primary := none
    secondary := [] } ∧
  State.reset.fj = {
    records := []
    nextSeq := 0
    overflow := 0
    foldbackRef := none
    derateRefs := Vector.replicate 11 none
    owner := .free
    readLatches := Vector.replicate 4 none
    attention := false } ∧
  State.reset.cap = {
    state := .idle
    mode := .single
    pattern := 0
    recordSize := 1
    capacity := 2048
    postCount := 0
    postRemaining := 0
    ring := []
    preTrigger := 0
    cursorCp := 0
    cursorSp := 0 } ∧
  State.reset.bp = {
    regionBase := 0
    stagingCp := none
    stagingSp := none
    heldReads := []
    expiryCount := 0
    expiryFlag := false
    misuseCount := 0
    lastMisuse := 0
    lastRequest := none } ∧
  State.reset.msCounter = 0

/-- Every step keeps the shared SRAM in its canonical form. -/
def Obligations.StepsKeepMemoryCanonical : Prop :=
  ∀ s t : State, s.mem.wf = true → step s = .next t → t.mem.wf = true

/-- Every step keeps the drive bounded: E within C, E_m within C_m, all of them 0 outside RUN and during reset, and E_m 0
for a GATED module. -/
def Obligations.StepsKeepTheDriveBounded : Prop :=
  ∀ s t : State, DriveBounded s → step s = .next t → DriveBounded t

/-- Every step keeps the trip cause holder, the destination, the interval timers and the waiting flag sound. -/
def Obligations.StepsKeepTheSequencerSound : Prop :=
  ∀ s t : State, HolderSound s.sq → TimersSound s.sq → step s = .next t → HolderSound t.sq ∧ TimersSound t.sq

/-- Every step keeps the journal within 64 records, in order of sequence assignment, without a repeated number, and every
held mark on a copy of the head. -/
def Obligations.StepsKeepTheJournalInOrder : Prop :=
  ∀ s t : State, JournalSound s.fj → step s = .next t → JournalSound t.fj

/-- Every step keeps the capture within its sizes, its post count and its cursors. -/
def Obligations.StepsKeepTheCaptureSound : Prop :=
  ∀ s t : State, CaptureSound s.cap → step s = .next t → CaptureSound t.cap

/-- Every step keeps held reads and pending snapshots waiting for an evaluation alone, and at most four reads held. -/
def Obligations.StepsKeepWaitersBehindAnEvaluation : Prop :=
  ∀ s t : State, WaitingSound s → step s = .next t → WaitingSound t

/-- Every step keeps each filter in line with its arc line, and the strike list within 8 entries, or 7 where a strike can
still be taken. -/
def Obligations.StepsKeepTheArcMonitorSound : Prop :=
  ∀ s t : State, ArcInputsSound s → StrikesSound s → HolderSound s.sq → s.lt.effective.inRange → step s = .next t →
    ArcInputsSound t ∧ StrikesSound t

/-- Every step keeps every limit in effect within its range, every channel value within its plausible range, and the
Mismatch Unit's causes and flag consistent. -/
def Obligations.StepsKeepLimitsAndReadingsInRange : Prop :=
  ∀ s t : State, s.lt.effective.inRange → ChannelsSound s.td.channels → MismatchSound s.mu → step s = .next t →
    t.lt.effective.inRange ∧ ChannelsSound t.td.channels ∧ MismatchSound t.mu

/-! ### Telemetry frames -/

/-- A header opens a frame, abandoning one that is open; nothing else of the decoder changes, and the journal is handed a
TELEMETRY_GAP record exactly when a frame was seen before and the gap is not 0. -/
def Obligations.HeaderOpensAFrame : Prop :=
  ∀ (w : Word) (s : State), s.operating → s.mem.wf = true →
    ∃ t, exec (.frameHeaderWrite w) s = .next t ∧
      t = { s with
        td := { s.td with
          abandoned := if s.td.frameOpen then min (s.td.abandoned + 1) 255 else s.td.abandoned
          marks := Vector.replicate 30 false
          frameSeq := w.setWidth 8
          lastSeq := w.setWidth 8
          frameSeen := true
          frameOpen := true }
        fj := t.fj
        cap := t.cap
        mem := t.mem } ∧
      StoresWord s t 0x020 w ∧
      (s.td.frameSeen = false ∨ w.setWidth 8 - s.td.lastSeq - 1 = 0 → t.fj = s.fj ∧ t.cap = s.cap) ∧
      (s.td.frameSeen = true → w.setWidth 8 - s.td.lastSeq - 1 ≠ 0 →
        t.fj = (streamRecord (eventRecord s .telemetryGap 0 (w.setWidth 8 - s.td.lastSeq - 1).toNat) s).fj ∧
        t.cap = (streamRecord (eventRecord s .telemetryGap 0 (w.setWidth 8 - s.td.lastSeq - 1).toNat) s).cap)

/-- A data write in an open frame takes its slot's latch and sets its mark; it has no other effect on the part. A data
write or an end write with no frame open is an orphan: it reaches memory and the orphan count rises. -/
def Obligations.DataWritesLatchOrAreOrphans : Prop :=
  (∀ (k : Fin 30) (w : Word) (s : State), s.operating → s.mem.wf = true → s.td.frameOpen = true →
    ∃ t, exec (.dataSlotWrite ⟨k.val + 1, by omega⟩ w) s = .next t ∧
      t = { s with
        td := { s.td with latches := s.td.latches.set k w, marks := s.td.marks.set k true }
        mem := t.mem } ∧
      StoresWord s t (0x021 + k.val) w) ∧
  (∀ (k : Fin 30) (w : Word) (s : State), s.operating → s.mem.wf = true → s.td.frameOpen = false →
    ∃ t, exec (.dataSlotWrite ⟨k.val + 1, by omega⟩ w) s = .next t ∧
      t = { s with td := { s.td with orphans := min (s.td.orphans + 1) 255 }, mem := t.mem } ∧
      StoresWord s t (0x021 + k.val) w) ∧
  ∀ (w : Word) (s : State), s.operating → s.mem.wf = true → s.td.frameOpen = false →
    ∃ t, exec (.frameEnd w) s = .next t ∧
      t = { s with td := { s.td with orphans := min (s.td.orphans + 1) 255 }, mem := t.mem } ∧ StoresWord s t 0x03F w

/-- A frame end while an evaluation is in flight closes the frame, restarts the frame timer, ends telemetry loss, counts a
wrong end count, and leaves its snapshot pending, with a FRAME_OVERRUN record when it replaces one. -/
def Obligations.FrameEndBehindAnEvaluationIsPending : Prop :=
  ∀ (w : Word) (s : State), s.operating → s.mem.wf = true → s.td.frameOpen = true → s.cu.evaluation.isSome = true →
    ∃ t, exec (.frameEnd w) s = .next t ∧
      t = { s with
        td := { s.td with
          frameOpen := false
          discarded := if s.td.marks.toList.countP id = w.toNat % 256 then s.td.discarded
            else min (s.td.discarded + 1) 255
          frameTimer := some s.msCounter
          telemetryLost := false
          pendingSnapshot := some {
            seq := s.td.frameSeq
            words := s.td.latches
            marks := if s.td.marks.toList.countP id = w.toNat % 256 then s.td.marks
              else Vector.replicate 30 false } }
        fj := t.fj
        cap := t.cap
        mem := t.mem } ∧
      StoresWord s t 0x03F w ∧
      (s.td.pendingSnapshot = none → t.fj = s.fj ∧ t.cap = s.cap) ∧
      (s.td.pendingSnapshot.isSome = true →
        t.fj = (streamRecord (eventRecord s .frameOverrun 0 0) s).fj ∧
        t.cap = (streamRecord (eventRecord s .frameOverrun 0 0) s).cap)

/-- A frame end with no evaluation in flight starts one with its snapshot: the pending updates take effect together, the
channel flags are refreshed, the channels are decoded, and the evaluation holds what the units computed, from this table
and these channels alone, with a failure or restoration for each channel whose failed flag the reading set or cleared, in
ascending channel. That the results stand in the evaluation from its start is the model's (log entry 9), as is that a
channel made absent keeps its fraction and derate-open flag until the completion (log entry 24). -/
def Obligations.FrameEndStartsAnEvaluation : Prop :=
  ∀ (w : Word) (s : State), s.operating → s.mem.wf = true → s.td.frameOpen = true → s.cu.evaluation = none →
    ∃ (t : State) (n : Snapshot) (ev : Evaluation),
      exec (.frameEnd w) s = .next t ∧
      n = {
        seq := s.td.frameSeq
        words := s.td.latches
        marks := if s.td.marks.toList.countP id = w.toNat % 256 then s.td.marks else Vector.replicate 30 false } ∧
      t = { s with
        td := { s.td with
          frameOpen := false
          discarded := if s.td.marks.toList.countP id = w.toNat % 256 then s.td.discarded
            else min (s.td.discarded + 1) 255
          frameTimer := some s.msCounter
          telemetryLost := false
          channels := t.td.channels }
        lt := { effective := s.lt.effective.applyAll s.lt.pendingSet, pendingSet := PendingUpdates.empty }
        am := { s.am with
          strikes := strikesKept s.msCounter s.lt.effective.general t.lt.effective.general s.am.strikes }
        cu := { s.cu with evaluation := some ev }
        mem := t.mem } ∧
      StoresWord s t 0x03F w ∧
      DecodedAtStart t.lt.effective n s.td.channels t.td.channels ev.channelEvents ∧
      ev.StartedFrom n t.lt.effective t.td.channels s.du s.cu.e

/-- When the frame timer's age reaches FRAME_TIMEOUT the timer stops, telemetry is lost, a TELEMETRY_LOSS demand trips a
live sequencer, and the pending updates take effect, closing the DERATE records of the channels they make absent. That the
demand precedes the updates is the model's choice (log entry 7), as are the ascending order of the closes (log entry 8)
and that the expiry may come late (log entry 5). -/
def Obligations.FrameTimeoutLosesTelemetry : Prop :=
  ∀ (stamp : Word) (s : State), s.td.frameTimer = some stamp →
    s.lt.effective.general.frameTimeout ≤ (s.msCounter - stamp).toNat →
    ∃ t u : State, exec .frameTimeoutExpiry s = .next t ∧
      t = { s with
        td := { s.td with frameTimer := none, telemetryLost := true, channels := t.td.channels }
        lt := { effective := s.lt.effective.applyAll s.lt.pendingSet, pendingSet := PendingUpdates.empty }
        am := { s.am with
          strikes := strikesKept s.msCounter s.lt.effective.general t.lt.effective.general s.am.strikes }
        sq := t.sq
        cu := t.cu
        fj := t.fj
        cap := t.cap } ∧
      (s.sq.state.live → u = s.trippedOn .telemetryLoss) ∧ (¬ s.sq.state.live → u = s) ∧
      t.sq = u.sq ∧ t.cu = u.cu ∧
      RefreshedAtOnce t.lt.effective s.td.channels t.td.channels ∧
      t.fj = (State.deratesClosed { u with lt := t.lt } s.td.channels).fj ∧
      t.cap = (State.deratesClosed { u with lt := t.lt } s.td.channels).cap

/-! ### What an evaluation computes -/

/-- A present channel's reading: the slot's field, signed or not, times the scale, over 2 to the shift, rounded down; in
range it is the value and clears the counter and the failed flag, out of range the nearest bound counts as a bad reading,
and an unwritten slot counts with the value held. An absent channel is not decoded: its record stands. -/
def Obligations.DecodingGivesTheReading : Prop :=
  (∀ (c : Fin 30) (e : ChannelEntry) (fp : Nat) (n : Snapshot) (r : ChannelRecord),
    r.present = false → decodeRecord c e fp n r = r) ∧
  ∀ (c : Fin 30) (e : ChannelEntry) (fp : Nat) (n : Snapshot) (r : ChannelRecord) (k : Fin 30) (x lo hi : Int),
    r.present = true → e.slot = k.val + 1 →
    (lo, hi) = (if c.val < 16 then (0, 4000) else if c.val < 18 then (0, 30000)
      else if c.val < 29 then (-400, 1500) else (0, 2000)) →
    2 ^ e.shift * x ≤ rawReading e r.signed n.words[k] * e.scale →
    rawReading e r.signed n.words[k] * e.scale < 2 ^ e.shift * (x + 1) →
    (n.marks[k] = false → decodeRecord c e fp n r =
      { r with
        faults := min (r.faults + 1) 15
        failed := r.failed || decide (fp ≤ min (r.faults + 1) 15) }) ∧
    (n.marks[k] = true → lo ≤ x → x ≤ hi → decodeRecord c e fp n r =
      { r with value := x, faults := 0, failed := false }) ∧
    (n.marks[k] = true → x < lo → decodeRecord c e fp n r =
      { r with
        value := lo
        faults := min (r.faults + 1) 15
        failed := r.failed || decide (fp ≤ min (r.faults + 1) 15) }) ∧
    (n.marks[k] = true → hi < x → decodeRecord c e fp n r =
      { r with
        value := hi
        faults := min (r.faults + 1) 15
        failed := r.failed || decide (fp ≤ min (r.faults + 1) 15) })

/-- The lookup: a temperature below the base takes the first step of the curve, one 128.0 degrees or more above it the last
step, and one between them the step it falls in; a final entry gives its value, a refined one its block's fine entry. -/
def Obligations.LookupTakesTheStepOfTheCurve : Prop :=
  ∀ (t : EffectiveTable) (curve : Curve) (temperature : Int) (i : Fin 16) (j : Fin 8),
    (temperature - t.base curve < 0 ∧ i = 0 ∧ j = 0) ∨
    (0 ≤ temperature - t.base curve ∧ temperature - t.base curve < 1280 ∧
      (i.val : Int) = (temperature - t.base curve) / 80 ∧
      (j.val : Int) = (temperature - t.base curve - 80 * i.val) / 10) ∨
    (1280 ≤ temperature - t.base curve ∧ i = 15 ∧ j = 7) →
    lookup t curve temperature =
      if (t.curve curve)[i].refined then t.fine[8 * (t.curve curve)[i].block.val + j.val]'(by omega)
      else (t.curve curve)[i].value

/-- The hot flags with their hysteresis, and the thermal condition over CLIN, CLOUT and FILT as a group. The flow
counter and the cooling condition. -/
def Obligations.HeatAndFlowConditionsFollowTheReadings : Prop :=
  ((∀ (t : EffectiveTable) (channels : Vector ChannelRecord 30) (hot : Vector Bool 8) (m : Fin 8),
    (newHot t channels hot m = true ↔ channels[hskChannel m].usable = true ∧
      ((hot[m] = false ∧ t.channels[hskChannel m].trip ≤ channels[hskChannel m].value) ∨
        (hot[m] = true ∧ t.channels[hskChannel m].trip - t.general.thyst ≤ channels[hskChannel m].value)))) ∧
  ∀ (t : EffectiveTable) (channels : Vector ChannelRecord 30),
    (newThermal t channels false = true ↔
      ∃ c : Fin 30, (c = 26 ∨ c = 27 ∨ c = 28) ∧ channels[c].usable = true ∧ t.channels[c].trip ≤ channels[c].value) ∧
    (newThermal t channels true = false ↔
      ∀ c : Fin 30, (c = 26 ∨ c = 27 ∨ c = 28) → channels[c].usable = true →
        channels[c].value < t.channels[c].trip - t.general.thyst)) ∧
  ∀ (t : EffectiveTable) (channels : Vector ChannelRecord 30) (counter n : Nat),
    (channels[flow].usable = true → channels[flow].value < t.general.flowMin →
      newFlowCounter t channels counter = min (counter + 1) 255) ∧
    (channels[flow].usable = true → (t.general.flowMin : Int) ≤ channels[flow].value →
      newFlowCounter t channels counter = 0) ∧
    (channels[flow].usable = false → newFlowCounter t channels counter = 0 ∧
      newCooling t channels false n = false ∧ newCooling t channels true n = false) ∧
    (channels[flow].usable = true → (newCooling t channels false n = true ↔ t.general.flowFrames ≤ n)) ∧
    (channels[flow].usable = true → (newCooling t channels true n = true ↔
      channels[flow].value < (t.general.flowMin : Int) + t.general.flowHyst))

/-- The outcome for V: a fold to floor(E x PRLIM / PR), below E, above the limit with drive; hold above it without
drive, in the band above the release level, and where an output channel is unusable; rise at or below the release level.
The output trip test and the module tests on the readings. -/
def Obligations.ReflectedPowerDecidesOutcomesAndTests : Prop :=
  (∀ (t : EffectiveTable) (channels : Vector ChannelRecord 30) (e : Nat),
    (channels[outf].usable = true → channels[outr].usable = true →
      ((t.general.prlim : Int) < channels[outr].value → 0 < e →
        ∃ k : Nat, newVOutcome t channels e = .fold k ∧ k < e ∧
          (k : Int) = (e : Int) * t.general.prlim / channels[outr].value) ∧
      ((t.general.prlim : Int) < channels[outr].value → e = 0 → newVOutcome t channels e = .hold) ∧
      (((t.general.prlim - t.general.prlim / 8 : Nat) : Int) < channels[outr].value →
        channels[outr].value ≤ t.general.prlim → newVOutcome t channels e = .hold) ∧
      (channels[outr].value ≤ ((t.general.prlim - t.general.prlim / 8 : Nat) : Int) →
        newVOutcome t channels e = .rise)) ∧
    (channels[outf].usable = false ∨ channels[outr].usable = false → newVOutcome t channels e = .hold)) ∧
  ∀ (t : EffectiveTable) (channels : Vector ChannelRecord 30),
    (outputTestMet t channels = true ↔ channels[outf].usable = true ∧ channels[outr].usable = true ∧
      (t.general.pfmin : Int) ≤ channels[outf].value ∧
      (t.general.rho2trip : Int) * channels[outf].value ≤ 4096 * channels[outr].value) ∧
    ∀ m : Fin 8, (moduleTestMet t channels m = true ↔
      channels[fwdChannel m].usable = true ∧ channels[rflChannel m].usable = true ∧
      (t.general.modFmin : Int) ≤ channels[fwdChannel m].value ∧
      ((t.general.rho2mod : Int) * channels[fwdChannel m].value ≤ 4096 * channels[rflChannel m].value ∨
        t.channels[rflChannel m].trip ≤ channels[rflChannel m].value))

/-! ### An evaluation's completion -/

/-- A completion forms G, C and the C_m from the evaluation's fractions, the new V and the new admission states, and in RUN
moves E and the E_m down at once and up by at most RISE; outside RUN, and where its demands leave RUN, they are 0. -/
def Obligations.CompletionSetsTheCeilings : Prop :=
  ∀ (ev : Evaluation) (s : State), s.cu.evaluation = some ev →
    ∃ (t : State) (v : Nat) (gated : Fin 8 → Bool),
      exec .evaluationCompletion s = .next t ∧
      v = (match ev.vOutcome with
        | .fold k => min s.mu.v k
        | .rise => min 4095 (s.mu.v + ev.rise)
        | .hold => s.mu.v) ∧
      (∀ m : Fin 8, gated m = (s.mu.admission[m].gated || ev.hot[m] || ev.sensorCauses[m] || s.mu.admission[m].mismatch ||
        decide (ev.modPersist ≤
          if s.sq.state = .run ∧ ev.moduleTests[m] = true then min (s.mu.moduleCounters[m] + 1) 15 else 0))) ∧
      t.cu.g = 4095 * min ev.fractions[8] (min ev.fractions[9] ev.fractions[10]) / 4096 ∧
      t.cu.c = min t.cu.g v ∧
      (∀ m : Fin 8, t.cu.cm[m] = if gated m then 0 else 4095 * ev.fractions[hskIndex m] / 4096) ∧
      (t.sq.state = .run → s.sq.state = .run ∧
        t.cu.e = (if t.cu.c ≤ s.cu.e then t.cu.c else min t.cu.c (s.cu.e + ev.rise)) ∧
        ∀ m : Fin 8, t.cu.em[m] = if gated m then 0
          else if t.cu.cm[m] ≤ s.cu.em[m] then t.cu.cm[m] else min t.cu.cm[m] (s.cu.em[m] + ev.rise)) ∧
      (t.sq.state ≠ .run → t.cu.e = 0 ∧ ∀ m : Fin 8, t.cu.em[m] = 0)

/-- A completion applies the evaluation's outcomes to the Derating and Mismatch Units as they stand, and adopts the fractions
of the thermal channels; where a snapshot is pending, its decoding follows at once on the channel records so left. Where an
automatic restart follows in the same completion, the Mismatch Unit is restarted from what the outcomes left. That the
outcomes are held in the evaluation until then is the model's (log entry 9), as is that a channel made absent then keeps its
fraction and derate-open flag until the next completion (log entry 24). -/
def Obligations.CompletionAppliesTheOutcomes : Prop :=
  ∀ (ev : Evaluation) (s : State), s.cu.evaluation = some ev →
    ∃ (t : State) (u : MismatchUnit) (adopted : Vector ChannelRecord 30), exec .evaluationCompletion s = .next t ∧
      t.du = { thermal := ev.thermal, hot := ev.hot, flowCounter := ev.flowCounter, cooling := ev.cooling } ∧
      u.CompletedFrom ev (decide (s.sq.state = .run)) s.mu ∧
      (s.sq.state ≠ .tripped ∨ t.sq.state = .tripped → t.mu = u) ∧
      (s.sq.state = .tripped → t.sq.state ≠ .tripped → t.mu = {
        v := 4095
        foldbackOpen := false
        outputCounter := 0
        moduleCounters := Vector.replicate 8 0
        admission := u.admission.map fun a => { a with mismatch := false, gated := a.gated && (a.hot || a.sensor) } }) ∧
      FractionsAdopted ev s.td.channels adopted ∧ (s.td.pendingSnapshot = none → t.td.channels = adopted) ∧
      ∀ n, s.td.pendingSnapshot = some n → ∃ events, DecodedAtStart t.lt.effective n adopted t.td.channels events

/-- A completion's demands are entered in the order SENSOR, THERMAL, COOLING, MISMATCH, MODULES, after the evaluation's
records: from SETTLE, RUN, MUTE and DISCHARGE toward OFF the first is the primary cause and the others are the secondary
ones, with one TRIP record; in DISCHARGE toward TRIPPED and in TRIPPED each is a secondary cause if new and there is room;
in OFF they do nothing. In TRIPPED the auto-restart check follows, and a restart that passes it starts from what the
demands left. That the check precedes the frame record and the held reads is the model's (log entry 23), as is the sensor
condition read from the records as they stand (log entry 25). -/
def Obligations.CompletionEntersItsDemandsInOrder : Prop :=
  ∀ (ev : Evaluation) (s : State), s.cu.evaluation = some ev →
    ∃ (t u recorded : State) (demands : List TripKind), exec .evaluationCompletion s = .next t ∧
      u = { s with
        td := { s.td with channels := u.td.channels }
        du := { thermal := ev.thermal, hot := ev.hot, flowCounter := ev.flowCounter, cooling := ev.cooling }
        mu := u.mu
        cu := u.cu
        sq := u.sq
        fj := u.fj
        cap := u.cap } ∧
      (∀ c : Fin 30, u.td.channels[c] = { s.td.channels[c] with
        fraction := u.td.channels[c].fraction, derateOpen := u.td.channels[c].derateOpen }) ∧
      u.mu.CompletedFrom ev (decide (s.sq.state = .run)) s.mu ∧
      recorded = s.evaluationRecorded ev u.mu.v u.mu.admission ∧
      demands =
        (if sensorCondition s.td.channels then [TripKind.sensor] else []) ++
        (if ev.thermal then [TripKind.thermal] else []) ++ (if ev.cooling then [TripKind.cooling] else []) ++
        (if s.sq.state = .run ∧ ev.outputTest = true ∧ ev.vswrPersist ≤ s.mu.outputCounter + 1
          then [TripKind.mismatch] else []) ++
        (if ev.gateLimit < u.mu.admission.toList.countP (fun a => a.gated) then [TripKind.modules] else []) ∧
      (s.sq.state = .off ∨ demands = [] → u.sq = s.sq ∧ u.fj = recorded.fj ∧ u.cap = recorded.cap) ∧
      (∀ (k : TripKind) (ks : List TripKind), demands = k :: ks →
        (s.sq.state.live →
          u.sq = (State.entered { s with sq := { s.sq with primary := some k, secondary := ks } } .discharge .tripped).sq ∧
          u.cu.e = 0 ∧ u.cu.em = Vector.replicate 8 0) ∧
        (s.sq.state = .discharge → s.sq.destination ≠ .tripped →
          u.sq = { s.sq with primary := some k, secondary := ks, destination := .tripped }) ∧
        (s.sq.state.live ∨ (s.sq.state = .discharge ∧ s.sq.destination ≠ .tripped) →
          u.fj = (recorded.journalled (eventRecord s (.trip k) 0 ks.length)).fj ∧
          u.cap = (recorded.journalled (eventRecord s (.trip k) 0 ks.length)).cap)) ∧
      ((s.sq.state = .discharge ∧ s.sq.destination = .tripped) ∨ s.sq.state = .tripped →
        u.sq = { s.sq with secondary := demands.foldl (fun l k =>
          if s.sq.primary ≠ some k ∧ k ∉ l ∧ l.length < 4 then l ++ [k] else l) s.sq.secondary } ∧
        u.fj = recorded.fj ∧ u.cap = recorded.cap) ∧
      (¬ u.autoRestarts → t.sq = u.sq ∧ t.mu = u.mu ∧ t.fj = u.fj) ∧
      (u.autoRestarts → t.sq = (performRestart true 0 u).sq ∧ t.mu = (performRestart true 0 u).mu ∧
        t.fj = (performRestart true 0 u).fj)

/-- The records of one completion are those of R154 in their order, with their values and flags, on any journal: alone in OFF
and where no demand trips, and before the TRIP record where one does. On an empty journal, with no condition record open
before, their kinds and sources are channel failures and restorations, DERATE opens in ascending channel, the FOLDBACK open,
the gated modules in ascending number, then the TRIP record. -/
def Obligations.CompletionRecordsComeInOrder : Prop :=
  (∀ (ev : Evaluation) (s : State), s.cu.evaluation = some ev →
    ∃ (t : State) (u : MismatchUnit) (recorded : State), exec .evaluationCompletion s = .next t ∧
      u.CompletedFrom ev (decide (s.sq.state = .run)) s.mu ∧ recorded = s.evaluationRecorded ev u.v u.admission ∧
      (s.sq.state = .off ∨ (s.sq.state.live ∧ t.sq.state ≠ .discharge) → t.fj = recorded.fj) ∧
      (s.sq.state.live → t.sq.state = .discharge → ∀ k, t.sq.primary = some k →
        t.fj = (recorded.journalled (eventRecord s (.trip k) 0 t.sq.secondary.length)).fj)) ∧
  ∀ (ev : Evaluation) (s : State), s.cu.evaluation = some ev → s.fj.records = [] → ev.channelEvents.length ≤ 30 →
    s.sq.state.live → s.mu.foldbackOpen = false →
    (∀ k : Fin 11, s.td.channels[thermalChannel k].derateOpen = false) →
    ∃ t, exec .evaluationCompletion s = .next t ∧
      t.fj.records.map (fun r => (r.kind, r.source)) =
        ev.channelEvents.map (fun x => (if x.restored then RecordKind.channelRestored else .channelFailed, x.channel.val)) ++
        ((List.finRange 11).filter fun k => decide (ev.fractions[k] < 4096)).map (fun k => (RecordKind.derate, 18 + k.val)) ++
        (if t.mu.v < 4095 then [(RecordKind.foldback, 0)] else []) ++
        ((List.finRange 8).filter fun m => t.mu.admission[m].gated && !s.mu.admission[m].gated).map
          (fun m => (RecordKind.moduleGated, m.val)) ++
        (match t.sq.primary with
          | some k => if t.sq.state = .discharge then [(RecordKind.trip k, 0)] else []
          | none => [])

/-- A completion answers every held read in order of arrival with the values it leaves, empties the queue, and begins the
next evaluation with the pending snapshot if one is held: the pending updates take effect, a lowered WINDOW drops the strikes
that have reached it, and the channel records, with the completed evaluation's fractions adopted, are refreshed and decoded. The
rest of the decoder and of the Arc Monitor stands. That the results of the next evaluation stand in it from its start is the
model's (log entry 9), as is that a channel made absent then keeps its fraction and derate-open flag until its completion (log
entry 24). -/
def Obligations.CompletionReleasesReadsAndSnapshot : Prop :=
  ∀ (ev : Evaluation) (s : State), s.cu.evaluation = some ev →
    ∃ (t : State) (adopted : Vector ChannelRecord 30), exec .evaluationCompletion s = .next t ∧
      t = { s with
        td := { s.td with channels := t.td.channels, pendingSnapshot := none }
        lt := t.lt
        du := t.du
        mu := t.mu
        cu := t.cu
        am := { s.am with
          strikes := strikesKept s.msCounter s.lt.effective.general t.lt.effective.general s.am.strikes }
        sq := t.sq
        fj := t.fj
        cap := t.cap
        bp := { s.bp with heldReads := [] }
        replies := s.replies ++ s.bp.heldReads.map (fun h =>
          { master := .dl, transaction := h.transaction, data := substitutedWord h.word t }) } ∧
      FractionsAdopted ev s.td.channels adopted ∧
      (s.td.pendingSnapshot = none → t.cu.evaluation = none ∧ t.lt = s.lt ∧ t.td.channels = adopted) ∧
      ∀ n, s.td.pendingSnapshot = some n →
        t.lt = { effective := s.lt.effective.applyAll s.lt.pendingSet, pendingSet := PendingUpdates.empty } ∧
        ∃ next, t.cu.evaluation = some next ∧ next.StartedFrom n t.lt.effective t.td.channels t.du t.cu.e ∧
          DecodedAtStart t.lt.effective n adopted t.td.channels next.channelEvents

/-- A completion appends its frame record to the capture as its own records leave it: those of the evaluation, its TRIP record,
and those of an automatic restart. In ARMED and in POST the oldest record leaves a full ring; in POST the first record after the
trigger, also after one that these records raised, carries the mark, and the count to go falls to FROZEN; in IDLE and FROZEN, also
where these records froze the capture, nothing is appended. -/
def Obligations.CompletionAppendsItsFrameRecord : Prop :=
  ∀ (ev : Evaluation) (s : State), s.cu.evaluation = some ev →
    ∃ (t recorded captured : State) (u : MismatchUnit) (r : FrameRecord), exec .evaluationCompletion s = .next t ∧
      u.CompletedFrom ev (decide (s.sq.state = .run)) s.mu ∧ recorded = s.evaluationRecorded ev u.v u.admission ∧
      (s.sq.state = .off ∨ (s.sq.state.live ∧ t.sq.state ≠ .discharge) ∨
        (s.sq.state = .discharge ∧ (s.sq.destination = .tripped ∨ t.sq.destination ≠ .tripped)) ∨
        (s.sq.state = .tripped ∧ t.sq.state = .tripped) → captured = recorded) ∧
      ((s.sq.state.live ∧ t.sq.state = .discharge) ∨
        (s.sq.state = .discharge ∧ s.sq.destination ≠ .tripped ∧ t.sq.destination = .tripped) →
        ∃ k, t.sq.primary = some k ∧
          captured = recorded.journalled (eventRecord s (.trip k) 0 t.sq.secondary.length)) ∧
      (s.sq.state = .tripped → t.sq.state ≠ .tripped →
        captured = State.restartRecorded { recorded with mu := u } true 0) ∧
      r.seq = ev.snapshot.seq ∧ r.seqState = t.sq.state ∧ r.e = t.cu.e ∧
      r.values = (patternChannels s.cap.pattern).map (fun c => s.td.channels[c].value) ∧
      (captured.cap.state = .idle ∨ captured.cap.state = .frozen → t.cap = captured.cap) ∧
      (captured.cap.state = .armed → r.mark = false ∧
        t.cap = { captured.cap with
          ring := if captured.cap.ring.length < captured.cap.capacity then captured.cap.ring ++ [r]
            else captured.cap.ring.drop 1 ++ [r] }) ∧
      (captured.cap.state = .post →
        r.mark = decide (captured.cap.postRemaining = captured.cap.postCount) ∧
        t.cap = { captured.cap with
          ring := if captured.cap.ring.length < captured.cap.capacity then captured.cap.ring ++ [r]
            else captured.cap.ring.drop 1 ++ [r]
          preTrigger := if captured.cap.ring.length < captured.cap.capacity then captured.cap.preTrigger
            else captured.cap.preTrigger - 1
          postRemaining := captured.cap.postRemaining - 1
          state := if captured.cap.postRemaining - 1 = 0 then .frozen else .post })

/-! ### The limit table -/

/-- An interpreted word A loads the writing master's holder, and reaches memory; no limit changes. -/
def Obligations.WordAIsStaged : Prop :=
  ∀ (m : Master) (entry : TwoWordEntry) (w : Word) (s : State), s.operating → s.mem.wf = true → m.commands →
    ∃ t, exec (.limitWordAWrite m entry w) s = .next t ∧
      t = { s with
        bp := (if m = .cp then { s.bp with stagingCp := some (entry, w) }
          else { s.bp with stagingSp := some (entry, w) })
        mem := t.mem } ∧
      StoresWord s t (wordAOffset entry) w

/-- The word A that a word B by a master completes: the master's holder's if it holds this entry, else the newest of the
entry, pending or in effect. -/
def Obligations.WordBPairsWithItsWordA : Prop :=
  ∀ (m : Master) (entry : TwoWordEntry) (a w : Word) (s : State), s.operating → s.mem.wf = true → m.commands →
    (s.td.telemetryLost = false ∨ s.cu.evaluation.isSome = true) →
    (a = match (if m = .cp then s.bp.stagingCp else s.bp.stagingSp) with
      | some (other, staged) => if other = entry then staged
          else (match s.lt.pendingSet.two entry with
            | some (newest, _) => newest
            | none => effectiveWordA s.lt.effective entry)
      | none => match s.lt.pendingSet.two entry with
          | some (newest, _) => newest
          | none => effectiveWordA s.lt.effective entry) →
    ∃ t, exec (.limitWordBWrite m entry w) s = .next t ∧
      t = { s with lt := { s.lt with pendingSet := t.lt.pendingSet }, bp := t.bp, mem := t.mem } ∧
      StoresWord s t (wordBOffset entry) w ∧
      t.lt.pendingSet.two entry = some (a, w) ∧
      (∀ other, other ≠ entry → t.lt.pendingSet.two other = s.lt.pendingSet.two other) ∧
      t.lt.pendingSet = { s.lt.pendingSet with
        channels := t.lt.pendingSet.channels, general := t.lt.pendingSet.general } ∧
      t.bp = (if ((if m = .cp then s.bp.stagingCp else s.bp.stagingSp).map Prod.fst = some entry) then
          (if m = .cp then { s.bp with stagingCp := none } else { s.bp with stagingSp := none })
        else s.bp)

/-- A one-word entry's update joins the pending-update set unless telemetry is lost with no evaluation in flight, and then it
replaces the entry in effect at once, clamped, and every channel record takes its flags from the table, with its DERATE
closes in ascending channel, the model's choice (log entry 8); no holder is touched. -/
def Obligations.OneWordUpdatesAreHandedOver : Prop :=
  ∀ (m : Master) (entry : OneWordEntry) (w : Word) (s : State), s.operating → s.mem.wf = true → m.commands →
    ∃ t, exec (.limitOneWordWrite m entry w) s = .next t ∧
      StoresWord s t (oneWordOffset entry) w ∧
      (s.td.telemetryLost = false ∨ s.cu.evaluation.isSome = true →
        t = { s with lt := { s.lt with pendingSet := s.lt.pendingSet.insert (.one entry w) }, mem := t.mem }) ∧
      (s.td.telemetryLost = true → s.cu.evaluation = none →
        t = { s with
          td := { s.td with channels := t.td.channels }
          lt := { s.lt with effective := t.lt.effective }
          fj := t.fj
          cap := t.cap
          mem := t.mem } ∧
        RefreshedAtOnce t.lt.effective s.td.channels t.td.channels ∧
        t.fj = (State.deratesClosed { s with lt := t.lt } s.td.channels).fj ∧
        t.cap = (State.deratesClosed { s with lt := t.lt } s.td.channels).cap ∧
        effectiveOneWord t.lt.effective entry = (match entry with
          | .coarse _ _ => coarseWord (clampCoarse w)
          | .fine _ => fineWord (clampFine w)
          | .summary _ => mapWord (clampMap w)) ∧
        (∀ other, other ≠ entry → effectiveOneWord t.lt.effective other = effectiveOneWord s.lt.effective other) ∧
        t.lt.effective.channels = s.lt.effective.channels ∧ t.lt.effective.general = s.lt.effective.general)

/-- While telemetry is lost and no evaluation is in flight, a word B puts its entry into effect at once, clamped, with the
staged or the newest word A: the entry alone changes, every channel record takes its flags from the table, a channel that
changes presence starts from 0, a thermal channel made absent takes fraction 4096 with its DERATE record closed, and a
lowered WINDOW drops the strikes that have reached it. That several closes come in ascending channel is the model's choice
(log entry 8). -/
def Obligations.WordBTakesEffectWhileTelemetryIsLost : Prop :=
  ∀ (m : Master) (entry : TwoWordEntry) (a w : Word) (s : State), s.operating → s.mem.wf = true → m.commands →
    s.td.telemetryLost = true → s.cu.evaluation = none →
    (a = match (if m = .cp then s.bp.stagingCp else s.bp.stagingSp) with
      | some (other, staged) => if other = entry then staged
          else (match s.lt.pendingSet.two entry with
            | some (newest, _) => newest
            | none => effectiveWordA s.lt.effective entry)
      | none => match s.lt.pendingSet.two entry with
          | some (newest, _) => newest
          | none => effectiveWordA s.lt.effective entry) →
    ∃ t, exec (.limitWordBWrite m entry w) s = .next t ∧
      StoresWord s t (wordBOffset entry) w ∧
      t = { s with
        td := { s.td with channels := t.td.channels }
        lt := { s.lt with effective := { s.lt.effective with
          channels := t.lt.effective.channels, general := t.lt.effective.general } }
        am := { s.am with
          strikes := strikesKept s.msCounter s.lt.effective.general t.lt.effective.general s.am.strikes }
        fj := t.fj
        cap := t.cap
        bp := t.bp
        mem := t.mem } ∧
      (∀ c : Fin 30, t.lt.effective.channels[c] =
        if entry = .channel c then clampChannel a w else s.lt.effective.channels[c]) ∧
      t.lt.effective.general = (match entry with
        | .channel _ => s.lt.effective.general
        | .general g => clampGeneral g a w s.lt.effective.general) ∧
      t.bp = (if ((if m = .cp then s.bp.stagingCp else s.bp.stagingSp).map Prod.fst = some entry) then
          (if m = .cp then { s.bp with stagingCp := none } else { s.bp with stagingSp := none })
        else s.bp) ∧
      RefreshedAtOnce t.lt.effective s.td.channels t.td.channels ∧
      t.fj = (State.deratesClosed { s with lt := t.lt } s.td.channels).fj ∧
      t.cap = (State.deratesClosed { s with lt := t.lt } s.td.channels).cap

/-- The pending-update set takes effect entry by entry, each update clamped, and every entry without one stands. -/
def Obligations.PendingUpdatesTakeEffectTogether : Prop :=
  ∀ (t : EffectiveTable) (p : PendingUpdates),
    (∀ c : Fin 30, (t.applyAll p).channels[c] = match p.channels[c] with
      | some (a, b) => clampChannel a b
      | none => t.channels[c]) ∧
    (∀ (curve : Curve) (i : Fin 16), ((t.applyAll p).curve curve)[i] =
      match (match curve with
        | .modules => p.modulesCurve[i]
        | .coolant => p.coolantCurve[i]
        | .filter => p.filterCurve[i]) with
      | some w => clampCoarse w
      | none => (t.curve curve)[i]) ∧
    (∀ f : Fin 64, (t.applyAll p).fine[f] = match p.fine[f] with
      | some w => clampFine w
      | none => t.fine[f]) ∧
    (∀ n : Fin 32, (t.applyAll p).summary[n] = match p.summary[n] with
      | some w => clampMap w
      | none => t.summary[n]) ∧
    (∀ g : Fin 13,
      generalWordA (t.applyAll p).general g = generalWordA (match p.general[g] with
        | some (a, b) => clampGeneral g a b t.general
        | none => t.general) g ∧
      generalWordB (t.applyAll p).general g = generalWordB (match p.general[g] with
        | some (a, b) => clampGeneral g a b t.general
        | none => t.general) g)

/-- A written word takes effect field by field, each field read from its bits and clamped into its range; the words in
effect carry each field in its bits and 0 elsewhere; and the clamp is idempotent through them: the words in effect,
written again, give the entry in effect. That a cut width is held also for a channel absent by its slot is the model's
choice (log entry 27). -/
def Obligations.ClampingTwiceIsClampingOnce : Prop :=
  (∀ a b : Word, clampChannel a b = {
    slot := (a.extractLsb' 0 5).toNat
    offset := (a.extractLsb' 8 5).toNat
    width := min (min (a.extractLsb' 16 5).toNat 16) (32 - (a.extractLsb' 8 5).toNat)
    signed := a.getLsbD 24
    present := a.getLsbD 25 && decide (1 ≤ (a.extractLsb' 0 5).toNat ∧ (a.extractLsb' 0 5).toNat ≤ 30 ∧
      1 ≤ (a.extractLsb' 16 5).toNat)
    required := a.getLsbD 26
    scale := max 1 (b.extractLsb' 0 8).toNat
    shift := (b.extractLsb' 8 4).toNat
    trip := (b.extractLsb' 16 16).toInt }) ∧
  (∀ w : Word, (clampCoarse w).refined = w.getLsbD 31 ∧ (clampCoarse w).value = min (w.extractLsb' 0 13).toNat 4096 ∧
    (clampCoarse w).block.val = (w.extractLsb' 16 3).toNat ∧ clampFine w = min (w.extractLsb' 0 13).toNat 4096 ∧
    (clampMap w).mapped = w.getLsbD 15 ∧ (clampMap w).bit.val = (w.extractLsb' 0 5).toNat ∧
    (clampMap w).sense = w.getLsbD 8) ∧
  (∀ (a b : Word) (x : General),
    clampGeneral 0 a b x = { x with
      prlim := min (a.extractLsb' 0 16).toNat 30000, pfmin := min (b.extractLsb' 0 16).toNat 30000 } ∧
    clampGeneral 1 a b x = { x with
      rho2trip := max 1 (min 4096 (a.extractLsb' 0 16).toNat), vswrPersist := max 1 (b.extractLsb' 0 8).toNat } ∧
    clampGeneral 2 a b x = { x with
      rho2mod := max 1 (min 4096 (a.extractLsb' 0 16).toNat), modPersist := max 1 (b.extractLsb' 0 4).toNat
      modFmin := min (b.extractLsb' 16 16).toNat 4000 } ∧
    clampGeneral 3 a b x = { x with
      rise := max 1 (min 4095 (a.extractLsb' 0 16).toNat), holdMax := (b.extractLsb' 0 8).toNat } ∧
    clampGeneral 4 a b x = { x with
      flowMin := min (a.extractLsb' 0 16).toNat 2000, flowFrames := max 1 (b.extractLsb' 0 8).toNat
      flowHyst := (b.extractLsb' 16 8).toNat } ∧
    clampGeneral 5 a b x = { x with
      thyst := min (a.extractLsb' 0 16).toNat 500, fp := max 1 (b.extractLsb' 0 4).toNat } ∧
    clampGeneral 6 a b x = { x with
      quench := max 1 (min 1000 (a.extractLsb' 0 16).toNat), strikeLimit := max 1 (min 8 (b.extractLsb' 0 4).toNat)
      window := max 1 (b.extractLsb' 16 8).toNat } ∧
    clampGeneral 7 a b x = { x with
      settle := max 10 (min 5000 (a.extractLsb' 0 16).toNat), discharge := max 10 (min 5000 (b.extractLsb' 0 16).toNat) } ∧
    clampGeneral 8 a b x = { x with
      frameTimeout := max 1 (a.extractLsb' 0 8).toNat, autoThermal := a.getLsbD 16, autoCooling := a.getLsbD 17
      autoInterlock := a.getLsbD 18, gateLimit := min (b.extractLsb' 0 4).toNat 7 } ∧
    clampGeneral 9 a b x = { x with
      bModule := max (-400) (min 1500 (a.extractLsb' 0 16).toInt)
      bCoolant := max (-400) (min 1500 (b.extractLsb' 0 16).toInt) } ∧
    clampGeneral 10 a b x = { x with bFilter := max (-400) (min 1500 (a.extractLsb' 0 16).toInt) } ∧
    clampGeneral 11 a b x = { x with attentionMask := a &&& 0x001FFFFE, triggerMask := b &&& 0x001FFFFE } ∧
    clampGeneral 12 a b x = { x with pattern := b.extractLsb' 0 14 ++ a.extractLsb' 0 16 }) ∧
  (∀ e : ChannelEntry,
    (channelWordA e).toNat = e.slot % 32 + 2 ^ 8 * (e.offset % 32) + 2 ^ 16 * (e.width % 32) + 2 ^ 24 * e.signed.toNat +
      2 ^ 25 * e.present.toNat + 2 ^ 26 * e.required.toNat ∧
    (channelWordB e).toNat = e.scale % 256 + 2 ^ 8 * (e.shift % 16) + 2 ^ 16 * (e.trip % 65536).toNat) ∧
  (∀ e : CoarseEntry,
    (coarseWord e).toNat = e.value % 8192 + 2 ^ 16 * e.block.val + 2 ^ 31 * e.refined.toNat) ∧
  (∀ v : Nat, (fineWord v).toNat = v % 8192) ∧
  (∀ e : MapEntry, (mapWord e).toNat = e.bit.val + 2 ^ 8 * e.sense.toNat + 2 ^ 15 * e.mapped.toNat) ∧
  (∀ x : General,
    (generalWordA x 0).toNat = x.prlim % 65536 ∧ (generalWordB x 0).toNat = x.pfmin % 65536 ∧
    (generalWordA x 1).toNat = x.rho2trip % 65536 ∧ (generalWordB x 1).toNat = x.vswrPersist % 256 ∧
    (generalWordA x 2).toNat = x.rho2mod % 65536 ∧
    (generalWordB x 2).toNat = x.modPersist % 16 + 2 ^ 16 * (x.modFmin % 65536) ∧
    (generalWordA x 3).toNat = x.rise % 65536 ∧ (generalWordB x 3).toNat = x.holdMax % 256 ∧
    (generalWordA x 4).toNat = x.flowMin % 65536 ∧
    (generalWordB x 4).toNat = x.flowFrames % 256 + 2 ^ 16 * (x.flowHyst % 256) ∧
    (generalWordA x 5).toNat = x.thyst % 65536 ∧ (generalWordB x 5).toNat = x.fp % 16 ∧
    (generalWordA x 6).toNat = x.quench % 65536 ∧
    (generalWordB x 6).toNat = x.strikeLimit % 16 + 2 ^ 16 * (x.window % 256) ∧
    (generalWordA x 7).toNat = x.settle % 65536 ∧ (generalWordB x 7).toNat = x.discharge % 65536 ∧
    (generalWordA x 8).toNat = x.frameTimeout % 256 + 2 ^ 16 * x.autoThermal.toNat + 2 ^ 17 * x.autoCooling.toNat +
      2 ^ 18 * x.autoInterlock.toNat ∧
    (generalWordB x 8).toNat = x.gateLimit % 16 ∧
    (generalWordA x 9).toNat = (x.bModule % 65536).toNat ∧ (generalWordB x 9).toNat = (x.bCoolant % 65536).toNat ∧
    (generalWordA x 10).toNat = (x.bFilter % 65536).toNat ∧ generalWordB x 10 = 0 ∧
    generalWordA x 11 = x.attentionMask ∧ generalWordB x 11 = x.triggerMask ∧
    (generalWordA x 12).toNat = x.pattern.toNat % 2 ^ 16 ∧ (generalWordB x 12).toNat = x.pattern.toNat / 2 ^ 16) ∧
  (∀ a b : Word, clampChannel (channelWordA (clampChannel a b)) (channelWordB (clampChannel a b)) = clampChannel a b) ∧
  (∀ w : Word, clampCoarse (coarseWord (clampCoarse w)) = clampCoarse w) ∧
  (∀ w : Word, clampFine (fineWord (clampFine w)) = clampFine w) ∧
  (∀ w : Word, clampMap (mapWord (clampMap w)) = clampMap w) ∧
  ∀ (g : Fin 13) (a b : Word) (x : General),
    clampGeneral g (generalWordA (clampGeneral g a b x) g) (generalWordB (clampGeneral g a b x) g) x = clampGeneral g a b x

/-! ### Drive-link reads -/

/-- A drive-link read of the exciter drive or a trim word that is not held is answered at once with memory's word, its
low half the least of the request, 4095 and the enforced ceiling; nothing else of the part changes. A drive-link read of
a gate word that is not held is answered with memory's word for an ADMITTED module and with 0 for a GATED one. That memory's
word comes within the step is the model's choice of memory's latency (log entry 28). -/
def Obligations.SubstitutedReadsFollowCeilingsAndGates : Prop :=
  (∀ (x : BitVec 4) (s : State), s.operating →
    (s.cu.evaluation = none ∨ s.lt.effective.general.holdMax = 0 ∨ 4 ≤ s.bp.heldReads.length) →
    (∃ w : Word, exec (.dlExciterDriveRead x) s = .next (s.replied .dl x w) ∧
      w.toNat % 65536 = min ((s.mem.readWord (regionAddress s 0x000)).toNat % 65536) (min 4095 s.cu.e) ∧
      w.toNat / 65536 = (s.mem.readWord (regionAddress s 0x000)).toNat / 65536) ∧
    ∀ m : Fin 8, ∃ w : Word, exec (.dlTrimRead m x) s = .next (s.replied .dl x w) ∧
      w.toNat % 65536 = min ((s.mem.readWord (regionAddress s (0x001 + m.val))).toNat % 65536) (min 4095 s.cu.em[m]) ∧
      w.toNat / 65536 = (s.mem.readWord (regionAddress s (0x001 + m.val))).toNat / 65536) ∧
  ∀ (m : Fin 8) (x : BitVec 4) (s : State), s.operating →
    (s.cu.evaluation = none ∨ s.lt.effective.general.holdMax = 0 ∨ 4 ≤ s.bp.heldReads.length) →
    exec (.dlGateRead m x) s = .next (s.replied .dl x
      (if s.mu.admission[m].gated then 0 else s.mem.readWord (regionAddress s (0x009 + m.val))))

/-- A drive-link read of a substituted word during an evaluation, with HOLD_MAX above 0 and fewer than four reads held, joins
the tail of the held-read queue and is not answered; during reset it is answered 0 at once. -/
def Obligations.DriveLinkReadsAreHeldOrZeroedAtReset : Prop :=
  ∀ (x : BitVec 4) (m : Fin 8) (s : State),
    (s.operating → s.cu.evaluation.isSome = true → 0 < s.lt.effective.general.holdMax → s.bp.heldReads.length < 4 →
      exec (.dlExciterDriveRead x) s = .next { s with bp := { s.bp with
        heldReads := s.bp.heldReads ++ [⟨.exciter, x, s.lt.effective.general.holdMax⟩] } } ∧
      exec (.dlTrimRead m x) s = .next { s with bp := { s.bp with
        heldReads := s.bp.heldReads ++ [⟨.trim m, x, s.lt.effective.general.holdMax⟩] } } ∧
      exec (.dlGateRead m x) s = .next { s with bp := { s.bp with
        heldReads := s.bp.heldReads ++ [⟨.gate m, x, s.lt.effective.general.holdMax⟩] } }) ∧
    (s.pins.resetAsserted = true →
      exec (.dlExciterDriveRead x) s = .next (s.replied .dl x 0) ∧
      exec (.dlTrimRead m x) s = .next (s.replied .dl x 0) ∧
      exec (.dlGateRead m x) s = .next (s.replied .dl x 0))

/-- The oldest held read, at its expiry moment, is answered with the values as they stand; the expiry count rises and the
expiry flag sets. That the moment is reached is the command's coming, the model's choice (log entry 6). -/
def Obligations.HoldOffExpiryAnswersTheOldestRead : Prop :=
  ∀ (h : HeldRead) (rest : List HeldRead) (s : State), s.bp.heldReads = h :: rest →
    exec .holdOffExpiry s = .next
      { s.replied .dl h.transaction (substitutedWord h.word s) with
        bp := { s.bp with
          heldReads := rest, expiryCount := min (s.bp.expiryCount + 1) 65535, expiryFlag := true } }

/-! ### The arc path -/

/-- An arc line's change moves its own filter by the table of R91 and nothing else; during reset only the line moves. -/
def Obligations.ArcLinesMoveTheirFilters : Prop :=
  ∀ (i : Fin 3) (s : State),
    (s.operating →
      exec (.arcLineAssert i) s = .next { s with
        pins := { s.pins with arcLines := s.pins.arcLines.set i true }
        am := { s.am with inputs := s.am.inputs.set i { s.am.inputs[i] with
          filter := match s.am.inputs[i].filter with
            | .idle => .qualifying
            | .qualifying => .qualifying
            | .held => .held
            | .releasing => .held } } } ∧
      exec (.arcLineDeassert i) s = .next { s with
        pins := { s.pins with arcLines := s.pins.arcLines.set i false }
        am := { s.am with inputs := s.am.inputs.set i { s.am.inputs[i] with
          filter := match s.am.inputs[i].filter with
            | .idle => .idle
            | .qualifying => .idle
            | .held => .releasing
            | .releasing => .releasing } } }) ∧
    (s.pins.resetAsserted = true →
      exec (.arcLineAssert i) s = .next { s with pins := { s.pins with arcLines := s.pins.arcLines.set i true } } ∧
      exec (.arcLineDeassert i) s = .next { s with pins := { s.pins with arcLines := s.pins.arcLines.set i false } })

/-- A qualified arc in SETTLE, RUN or MUTE is a strike: entries that reached the window leave the list, this one joins
it, an ARC record with the list's length is added, and below STRIKE_LIMIT the sequencer is muted or its interval
restarted, while at the limit ARC_LOCKOUT trips it. A qualified arc in OFF, DISCHARGE or TRIPPED is a no-RF arc: its
record carries value 0 and the no-RF flag, the strike list and the sequencer stand, and the stuck timer starts. -/
def Obligations.QualifiedArcsStrikeOrAreRecorded : Prop :=
  (∀ (i : Fin 3) (s u : State) (strikes : List Strike), s.am.inputs[i].filter = .qualifying → s.sq.state.live →
    strikes = (s.am.strikes.filter fun x =>
      decide ((s.msCounter - x.timestamp).toNat < s.lt.effective.general.window * 1000)) ++ [⟨i, s.msCounter⟩] →
    u = State.journalled { s with am := {
        inputs := s.am.inputs.set i { s.am.inputs[i] with filter := .held, stuckTimer := some s.msCounter }
        strikes := strikes } } (eventRecord s .arc i.val strikes.length) →
    (s.lt.effective.general.strikeLimit ≤ strikes.length →
      exec (.arcQualifyExpiry i) s = .next (u.trippedOn .arcLockout)) ∧
    (strikes.length < s.lt.effective.general.strikeLimit →
      (s.sq.state = .run → exec (.arcQualifyExpiry i) s = .next (u.entered .mute .empty)) ∧
      (s.sq.state = .mute → exec (.arcQualifyExpiry i) s = .next { u with sq := { u.sq with
        quenchTimer := some (s.msCounter + BitVec.ofNat 32 s.lt.effective.general.quench), waiting := false } }) ∧
      (s.sq.state = .settle → exec (.arcQualifyExpiry i) s = .next { u with sq := { u.sq with
        settleTimer := some (s.msCounter + BitVec.ofNat 32 s.lt.effective.general.settle), waiting := false } }))) ∧
  ∀ (i : Fin 3) (s : State), s.am.inputs[i].filter = .qualifying → ¬ s.sq.state.live →
    exec (.arcQualifyExpiry i) s = .next (State.journalled
      { s with am := { s.am with
        inputs := s.am.inputs.set i { s.am.inputs[i] with filter := .held, stuckTimer := some s.msCounter } } }
      { eventRecord s .arc i.val 0 with noRf := true })

/-- A release expiry ends the arc event: the filter is IDLE, the stuck timer stopped and the stuck flag clear; when no
input is held any more, a sequencer waiting in SETTLE or MUTE enters RUN, and nothing else changes. That a waiting SETTLE
takes the arc clear is the model's choice between R92 and R111 (log entry 26). -/
def Obligations.ReleaseEndsTheArcEvent : Prop :=
  ∀ (i : Fin 3) (s t : State), s.am.inputs[i].filter = .releasing →
    t = { s with am := { s.am with
      inputs := s.am.inputs.set i { filter := .idle, stuckTimer := none, stuck := false } } } →
    ((∃ j : Fin 3, j ≠ i ∧ (s.am.inputs[j].filter = .held ∨ s.am.inputs[j].filter = .releasing)) →
      exec (.arcReleaseExpiry i) s = .next t) ∧
    ((∀ j : Fin 3, j ≠ i → s.am.inputs[j].filter = .idle ∨ s.am.inputs[j].filter = .qualifying) →
      (s.sq.waiting = true → s.sq.state = .settle ∨ s.sq.state = .mute →
        exec (.arcReleaseExpiry i) s = .next (t.entered .run .empty)) ∧
      (s.sq.waiting = false ∨ (s.sq.state ≠ .settle ∧ s.sq.state ≠ .mute) → exec (.arcReleaseExpiry i) s = .next t))

/-- 2000 ms after an arc event began its stuck flag sets and an ARC_STUCK demand is given, in every sequencer state;
before that the expiry does not occur. The oldest strike leaves the list when its age reaches the window; before that it
stays. That an expiry may come late and does nothing when it cannot occur is the model's choice (log entry 5). -/
def Obligations.StuckInputsTripAndStrikesAge : Prop :=
  (∀ (i : Fin 3) (stamp : Word) (s t : State), s.am.inputs[i].stuckTimer = some stamp →
    t = { s with am := { s.am with inputs := s.am.inputs.set i { s.am.inputs[i] with stuckTimer := none, stuck := true } } } →
    (2000 ≤ (s.msCounter - stamp).toNat →
      (s.sq.state.live → exec (.stuckTimerExpiry i) s = .next (t.trippedOn .arcStuck)) ∧
      (s.sq.state = .off → exec (.stuckTimerExpiry i) s = .next t) ∧
      (s.sq.state = .discharge → s.sq.destination ≠ .tripped → exec (.stuckTimerExpiry i) s = .next
        (State.journalled { t with sq := { s.sq with primary := some .arcStuck, secondary := [], destination := .tripped } }
          (eventRecord s (.trip .arcStuck) 0 0))) ∧
      ((s.sq.state = .discharge ∧ s.sq.destination = .tripped) ∨ s.sq.state = .tripped →
        exec (.stuckTimerExpiry i) s = .next { t with sq := { s.sq with
          secondary := if s.sq.primary ≠ some .arcStuck ∧ .arcStuck ∉ s.sq.secondary ∧ s.sq.secondary.length < 4
            then s.sq.secondary ++ [.arcStuck] else s.sq.secondary } })) ∧
    ((s.msCounter - stamp).toNat < 2000 → exec (.stuckTimerExpiry i) s = .next s)) ∧
  ∀ (x : Strike) (rest : List Strike) (s : State), s.am.strikes = x :: rest →
    (s.lt.effective.general.window * 1000 ≤ (s.msCounter - x.timestamp).toNat →
      exec .strikeEntryAgeing s = .next { s with am := { s.am with strikes := rest } }) ∧
    ((s.msCounter - x.timestamp).toNat < s.lt.effective.general.window * 1000 → exec .strikeEntryAgeing s = .next s)

/-! ### The sequencer -/

/-- A trip demand by the sequencer's state, shown on the interlock's opening: a trip with its record from SETTLE, RUN and
MUTE; the destination turned and a record with the timer running on in DISCHARGE toward OFF; a secondary cause, if new and
there is room, in DISCHARGE toward TRIPPED and in TRIPPED; nothing in OFF. -/
def Obligations.InterlockOpeningIsATripDemand : Prop :=
  ∀ s t : State, s.operating → s.pins.interlockOpen = false → t = { s with pins := { s.pins with interlockOpen := true } } →
    (s.sq.state.live → exec .interlockOpen s = .next (t.trippedOn .interlock)) ∧
    (s.sq.state = .discharge → s.sq.destination ≠ .tripped → exec .interlockOpen s = .next
      (State.journalled { t with sq := { s.sq with primary := some .interlock, secondary := [], destination := .tripped } }
        (eventRecord s (.trip .interlock) 0 0))) ∧
    ((s.sq.state = .discharge ∧ s.sq.destination = .tripped) ∨ s.sq.state = .tripped →
      exec .interlockOpen s = .next { t with sq := { s.sq with
        secondary := if s.sq.primary ≠ some .interlock ∧ .interlock ∉ s.sq.secondary ∧ s.sq.secondary.length < 4
          then s.sq.secondary ++ [.interlock] else s.sq.secondary } }) ∧
    (s.sq.state = .off → exec .interlockOpen s = .next t)

/-- The interlock's closing makes the auto-restart check in TRIPPED alone: it passes when every cause is THERMAL, COOLING
or INTERLOCK with its flag set and every restart check passes, and then the transmitter is restarted into SETTLE with the
automatic flag on its records; else the line alone changes. The sensor condition it reads is that of the records as they
stand, the model's choice (log entry 25). -/
def Obligations.InterlockClosingMayRestart : Prop :=
  ∀ s t : State, s.operating → s.pins.interlockOpen = true → t = { s with pins := { s.pins with interlockOpen := false } } →
    (t.autoRestarts → ∃ u, exec .interlockClose s = .next u ∧ u = performRestart true 0 t ∧ u.sq.state = .settle ∧
      u.fj = (t.restartRecorded true 0).fj ∧ u.cap = (t.restartRecorded true 0).cap ∧ u.bp = s.bp) ∧
    (¬ t.autoRestarts → exec .interlockClose s = .next t)

/-- The interval timers: an expired SETTLE or QUENCH timer enters RUN when no arc is held and sets the waiting flag when one
is; an expired DISCHARGE timer enters its destination. That an expiry may come late is the model's choice (log entry 5). -/
def Obligations.IntervalExpiriesLeaveTheirState : Prop :=
  ∀ (moment : Word) (s : State), (s.msCounter - moment).toNat < 2 ^ 31 →
    (s.sq.state = .settle → s.sq.settleTimer = some moment →
      exec .settleExpiry s = .next
        (if ∃ i : Fin 3, s.am.inputs[i].filter = .held ∨ s.am.inputs[i].filter = .releasing then
          { s with sq := { s.sq with settleTimer := none, waiting := true } }
        else s.entered .run .empty)) ∧
    (s.sq.state = .mute → s.sq.quenchTimer = some moment →
      exec .quenchExpiry s = .next
        (if ∃ i : Fin 3, s.am.inputs[i].filter = .held ∨ s.am.inputs[i].filter = .releasing then
          { s with sq := { s.sq with quenchTimer := none, waiting := true } }
        else s.entered .run .empty)) ∧
    (s.sq.state = .discharge → s.sq.dischargeTimer = some moment →
      (s.sq.destination = .tripped → exec .dischargeExpiry s = .next (s.entered .tripped .empty)) ∧
      (s.sq.destination = .off → exec .dischargeExpiry s = .next (s.entered .off .empty)))

/-- The restart checks in their order, and a RESTART they refuse: REFUSED_CAUSE with the first failing check's kind in OFF
and TRIPPED, REFUSED_STATE elsewhere, and nothing but S4 changes. The
sensor condition is read from the records as they stand, also during an evaluation: the model's choice (log entry 25). -/
def Obligations.RestartIsRefusedByTheFirstFailingCheck : Prop :=
  ∀ (m : Master) (value : Word) (k : TripKind) (s : State), s.operating → m.commands →
    (s.sq.state = .off ∨ s.sq.state = .tripped →
      (k = .telemetryLoss ∧ s.td.telemetryLost = true) ∨
      (k = .sensor ∧ s.td.telemetryLost = false ∧ sensorCondition s.td.channels = true) ∨
      (k = .interlock ∧ s.td.telemetryLost = false ∧ sensorCondition s.td.channels = false ∧
        s.pins.interlockOpen = true) ∨
      (k = .arcStuck ∧ s.td.telemetryLost = false ∧ sensorCondition s.td.channels = false ∧
        s.pins.interlockOpen = false ∧ ∃ i : Fin 3, s.am.inputs[i].stuck = true) ∨
      (k = .thermal ∧ s.td.telemetryLost = false ∧ sensorCondition s.td.channels = false ∧
        s.pins.interlockOpen = false ∧ (∀ i : Fin 3, s.am.inputs[i].stuck = false) ∧ s.du.thermal = true) ∨
      (k = .cooling ∧ s.td.telemetryLost = false ∧ sensorCondition s.td.channels = false ∧
        s.pins.interlockOpen = false ∧ (∀ i : Fin 3, s.am.inputs[i].stuck = false) ∧ s.du.thermal = false ∧
        s.du.cooling = true) ∨
      (k = .modules ∧ s.td.telemetryLost = false ∧ sensorCondition s.td.channels = false ∧
        s.pins.interlockOpen = false ∧ (∀ i : Fin 3, s.am.inputs[i].stuck = false) ∧ s.du.thermal = false ∧
        s.du.cooling = false ∧ s.lt.effective.general.gateLimit <
          s.mu.admission.toList.countP (fun a => a.hot || a.sensor)) →
      exec (.restart m 0xF value) s = .next (s.answered .restart m (.refusedCause k))) ∧
    (s.sq.state ≠ .off → s.sq.state ≠ .tripped →
      exec (.restart m 0xF value) s = .next (s.answered .restart m .refusedState))

/-- A RESTART that passes every check is performed, and S4 shows ACCEPTED; a restart by request or automatic empties the
holder, empties the strike list if ARC_LOCKOUT stood there, sets V to 4095, clears the mismatch counters and causes,
leaves modules without a cause ADMITTED, enters SETTLE, and adds its records: the FOLDBACK close, MODULE_READMITTED in
ascending number, then RESTART, the automatic flag on the latter two for an automatic one. The sensor condition is read
from the records as they stand, the model's choice (log entry 25). -/
def Obligations.RestartIsPerformedWhenEveryCheckPasses : Prop :=
  (∀ (m : Master) (value : Word) (s : State), s.operating → m.commands → s.sq.state = .off ∨ s.sq.state = .tripped →
    s.restartable →
    exec (.restart m 0xF value) s = .next ((performRestart false (masterTag m) s).answered .restart m .accepted)) ∧
  ∀ (automatic : Bool) (tag : Nat) (s t : State), t = performRestart automatic tag s →
    t = { s with
      sq := { (s.entered .settle .empty).sq with primary := none, secondary := [] }
      cu := (s.entered .settle .empty).cu
      am := { s.am with strikes :=
        if s.sq.primary = some .arcLockout ∨ .arcLockout ∈ s.sq.secondary then [] else s.am.strikes }
      mu := {
        v := 4095
        foldbackOpen := false
        outputCounter := 0
        moduleCounters := Vector.replicate 8 0
        admission := s.mu.admission.map fun a => { a with mismatch := false, gated := a.gated && (a.hot || a.sensor) } }
      fj := (s.restartRecorded automatic tag).fj
      cap := (s.restartRecorded automatic tag).cap }

/-- A STOP in SETTLE, RUN or MUTE adds its record and enters DISCHARGE toward OFF; elsewhere it is refused and nothing but S4
changes. -/
def Obligations.StopDischargesTowardOff : Prop :=
  ∀ (m : Master) (value : Word) (s : State), s.operating → m.commands →
    (s.sq.state.live → exec (.stop m 0xF value) s = .next
      (((s.journalled { eventRecord s .stop 0 0 with extra := BitVec.ofNat 32 (masterTag m) }).entered
        .discharge .off).answered .stop m .accepted)) ∧
    (¬ s.sq.state.live → exec (.stop m 0xF value) s = .next (s.answered .stop m .refusedState))

/-- A READMIT by the table of R64, the module number read from bits 0 to 15. -/
def Obligations.ReadmitReturnsAModuleWithoutCause : Prop :=
  ∀ (m : Master) (value : Word) (s : State), s.operating → m.commands →
    (8 ≤ value.toNat % 65536 → exec (.readmit m 0xF value) s = .next (s.answered .readmit m .refusedArgument)) ∧
    ∀ (i : Fin 8) (u : State), value.toNat % 65536 = i.val →
      u = { s with mu := { s.mu with
        moduleCounters := s.mu.moduleCounters.set i 0
        admission := s.mu.admission.set i { s.mu.admission[i] with
          mismatch := false, gated := s.mu.admission[i].hot || s.mu.admission[i].sensor } } } →
      (s.mu.admission[i].gated = false → exec (.readmit m 0xF value) s = .next (s.answered .readmit m .refusedState)) ∧
      (s.mu.admission[i].gated = true →
        (s.mu.admission[i].sensor = true →
          exec (.readmit m 0xF value) s = .next (u.answered .readmit m (.refusedCause .sensor))) ∧
        (s.mu.admission[i].sensor = false → s.mu.admission[i].hot = true →
          exec (.readmit m 0xF value) s = .next (u.answered .readmit m (.refusedCause .thermal))) ∧
        (s.mu.admission[i].sensor = false → s.mu.admission[i].hot = false →
          exec (.readmit m 0xF value) s = .next
            ((u.journalled (eventRecord s .moduleReadmitted i.val 0)).answered .readmit m .accepted)))

/-- STRIKE CLEAR empties the strike list in OFF and TRIPPED; JOURNAL CLEAR by the owner empties the list and clears the held
marks; OWNERSHIP CLEAR by the service port frees an owned journal. Every refusal changes S4 alone. -/
def Obligations.ClearRequestsActOnTheirOwnState : Prop :=
  ∀ (m : Master) (value : Word) (s : State), s.operating → m.commands →
    (s.sq.state = .off ∨ s.sq.state = .tripped → exec (.strikeClear m 0xF value) s = .next
      (State.answered { s with am := { s.am with strikes := [] } } .strikeClear m .accepted)) ∧
    (s.sq.state ≠ .off → s.sq.state ≠ .tripped →
      exec (.strikeClear m 0xF value) s = .next (s.answered .strikeClear m .refusedState)) ∧
    ((m = .cp ∧ s.fj.owner = .cp) ∨ (m = .sp ∧ s.fj.owner = .sp) →
      exec (.journalClear m 0xF value) s = .next (State.answered { s with fj := { s.fj with
        records := []
        readLatches := s.fj.readLatches.map fun l => l.map fun x => { x with held := false } } }
        .journalClear m .accepted)) ∧
    (¬ ((m = .cp ∧ s.fj.owner = .cp) ∨ (m = .sp ∧ s.fj.owner = .sp)) →
      exec (.journalClear m 0xF value) s = .next (s.answered .journalClear m .refusedOwner)) ∧
    (m = .sp → s.fj.owner ≠ .free → exec (.ownershipClear m 0xF value) s = .next
      (State.answered { s with fj := { s.fj with owner := .free } } .ownershipClear m .accepted)) ∧
    (m = .sp → s.fj.owner = .free →
      exec (.ownershipClear m 0xF value) s = .next (s.answered .ownershipClear m .refusedState)) ∧
    (m = .cp → exec (.ownershipClear m 0xF value) s = .next (s.answered .ownershipClear m .refusedMaster))

/-- CAPTURE ARM discards any capture and arms a new one with the pattern in effect and its sizes; CAPTURE STOP takes the
trigger of an ARMED capture, into FROZEN or into POST with P to go, and is refused in any other state. -/
def Obligations.CaptureRequestsArmAndTrigger : Prop :=
  ∀ (m : Master) (value : Word) (s : State), s.operating → m.commands →
    (∀ (p : BitVec 30) (k r n : Nat), p = s.lt.effective.general.pattern →
      k = ((List.finRange 30).filter fun c => p.getLsbD c.val).length → r = 1 + (k + 1) / 2 → n = 2048 / r →
      exec (.captureArm m 0xF value) s = .next (State.answered { s with cap := {
        state := .armed
        mode := if value.getLsbD 16 then .continuous else .single
        pattern := p
        recordSize := r
        capacity := n
        postCount := min (value.toNat % 2048) (n - 1)
        postRemaining := 0
        ring := []
        preTrigger := 0
        cursorCp := 0
        cursorSp := 0 } } .captureArm m .accepted)) ∧
    (s.cap.state = .armed → s.cap.postCount = 0 → exec (.captureStop m 0xF value) s = .next
      (State.answered { s with cap := { s.cap with preTrigger := s.cap.ring.length, state := .frozen } }
        .captureStop m .accepted)) ∧
    (s.cap.state = .armed → s.cap.postCount ≠ 0 → exec (.captureStop m 0xF value) s = .next
      (State.answered { s with cap := { s.cap with
        preTrigger := s.cap.ring.length, state := .post, postRemaining := s.cap.postCount } } .captureStop m .accepted)) ∧
    (s.cap.state ≠ .armed → exec (.captureStop m 0xF value) s = .next (s.answered .captureStop m .refusedState))

/-- A full write to a request word by the scanner or the drive link writes REFUSED_MASTER to S4 and counts one misuse; a
partial write by any master counts one misuse and leaves S4; neither reaches memory or the owning block. -/
def Obligations.StrayRequestsAreMisuse : Prop :=
  ∀ (m : Master) (lanes : Lanes) (value : Word) (s : State) (c : Instr) (r : Request) (offset : Nat), s.operating →
    (c = .restart m lanes value ∧ r = .restart ∧ offset = 0x400) ∨ (c = .stop m lanes value ∧ r = .stop ∧ offset = 0x401) ∨
    (c = .readmit m lanes value ∧ r = .readmit ∧ offset = 0x402) ∨
    (c = .strikeClear m lanes value ∧ r = .strikeClear ∧ offset = 0x403) ∨
    (c = .journalClear m lanes value ∧ r = .journalClear ∧ offset = 0x404) ∨
    (c = .ownershipClear m lanes value ∧ r = .ownershipClear ∧ offset = 0x405) ∨
    (c = .captureArm m lanes value ∧ r = .captureArm ∧ offset = 0x406) ∨
    (c = .captureStop m lanes value ∧ r = .captureStop ∧ offset = 0x407) →
    (lanes = 0xF → m = .ts ∨ m = .dl → exec c s = .next ((s.answered r m .refusedMaster).misused offset)) ∧
    (lanes ≠ 0xF → exec c s = .next (s.misused offset))

/-! ### The journal and its reads -/

/-- A record added to a journal with room joins the tail under the next number; a full journal first gives up its oldest
advisory record, or else its oldest record, and counts it; attention sets exactly for the kinds in the mask; an armed
single-shot capture is triggered exactly by the kinds in the trigger mask; a record given up clears the held mark of every
copy of it; an open condition record fills its open reference, and every other reference stands. -/
def Obligations.AddedRecordsJoinTheTail : Prop :=
  (∀ (j : FaultJournal) (mask : Word) (r : Record),
    (j.add mask r).nextSeq = j.nextSeq + 1 ∧
    (j.add mask r).attention = (j.attention || mask.getLsbD (kindCode r.kind)) ∧
    (j.add mask r).owner = j.owner ∧
    (j.add mask r).records.getLast? = some { r with seq := j.nextSeq, repeats := 1 } ∧
    ((∀ x ∈ j.records.head?, x.seq ≠ j.nextSeq) →
      (j.records.length < 64 →
        (j.add mask r).records = j.records ++ [{ r with seq := j.nextSeq, repeats := 1 }] ∧
        (j.add mask r).overflow = j.overflow ∧
        ∀ m : Fin 4, (j.add mask r).readLatches[m] = j.readLatches[m]) ∧
      (∀ (front rest : List Record) (x : Record), j.records.length = 64 → j.records = front ++ x :: rest →
        (∀ y ∈ front, isAdvisory y.kind = false) →
        (isAdvisory x.kind = true ∨ (front = [] ∧ ∀ y ∈ rest, isAdvisory y.kind = false)) →
        (j.add mask r).records = front ++ rest ++ [{ r with seq := j.nextSeq, repeats := 1 }] ∧
        (j.add mask r).overflow = min (j.overflow + 1) 65535 ∧
        ∀ m : Fin 4, (j.add mask r).readLatches[m] =
          j.readLatches[m].map fun l => { l with held := l.held && l.copy.seq != x.seq })) ∧
    (∀ (x : Record) (rest : List Record), j.records = x :: rest → x.seq = j.nextSeq → j.records.length ≤ 64 →
      (j.add mask r).records = rest ++ [{ r with seq := j.nextSeq, repeats := 1 }] ∧
      (j.add mask r).overflow = min (j.overflow + 1) 65535 ∧
      ∀ m : Fin 4, (j.add mask r).readLatches[m] =
        j.readLatches[m].map fun l => { l with held := l.held && l.copy.seq != x.seq }) ∧
    ∀ (kind : RecordKind) (source : Nat), (kind = .foldback ∧ source = 0) ∨ (kind = .derate ∧ 18 ≤ source ∧ source ≤ 28) →
      (r.openFlag = true → r.kind = kind → r.source = source →
        (j.add mask r).openRef kind source = some { seq := j.nextSeq, timestamp := r.timestamp }) ∧
      (r.openFlag = false ∨ r.kind ≠ kind ∨ (r.source ≠ source ∧ r.kind ≠ .foldback) →
        (j.add mask r).openRef kind source = j.openRef kind source)) ∧
  ∀ (c : CaptureUnit) (mask : Word) (kind : RecordKind),
    (c.state = .armed → c.mode = .single → mask.getLsbD (kindCode kind) = true →
      (c.postCount = 0 → c.notify mask kind = { c with preTrigger := c.ring.length, state := .frozen }) ∧
      (c.postCount ≠ 0 → c.notify mask kind =
        { c with preTrigger := c.ring.length, state := .post, postRemaining := c.postCount })) ∧
    (c.state ≠ .armed ∨ c.mode = .continuous ∨ mask.getLsbD (kindCode kind) = false → c.notify mask kind = c)

/-- A stream record that finds a newest record of its own kind and source coalesces with it: the repeat count rises, a
gap's value is added, and nothing is numbered, removed, attended or told; else it is added. The close of a condition
whose open record is still held marks that record closed in place with its duration, in ms, and changes nothing else but the
open reference; else a record is added, as any record is, with the closed flag and the duration, 0 where the reference is empty.
The condition's open reference is emptied in every case, and every other reference stands. -/
def Obligations.RecordsCoalesceAndClose : Prop :=
  (∀ (r : Record) (s : State), s.fj.records = [] → streamRecord r s = s.journalled r) ∧
  (∀ (r newest : Record) (front : List Record) (s : State), s.fj.records = front ++ [newest] →
    (newest.kind = r.kind → newest.source = r.source →
      streamRecord r s = { s with fj := { s.fj with
        records := front ++ [{ newest with
          repeats := min (newest.repeats + 1) 255
          value := if newest.kind = .telemetryGap then min 32767 (newest.value + r.value) else newest.value }] } }) ∧
    (¬ (newest.kind = r.kind ∧ newest.source = r.source) → streamRecord r s = s.journalled r)) ∧
  ∀ (kind : RecordKind) (source : Nat) (value : Int) (s : State),
    (kind = .foldback ∧ source = 0) ∨ (kind = .derate ∧ 18 ≤ source ∧ source ≤ 28) →
    ∃ j : FaultJournal,
      j = { s.fj with foldbackRef := j.foldbackRef, derateRefs := j.derateRefs } ∧ j.openRef kind source = none ∧
      (∀ (other : RecordKind) (k : Nat), (other = .foldback ∧ k = 0) ∨ (other = .derate ∧ 18 ≤ k ∧ k ≤ 28) →
        other ≠ kind ∨ k ≠ source → j.openRef other k = s.fj.openRef other k) ∧
      (∀ (ref : OpenRef) (front rest : List Record) (x : Record), s.fj.openRef kind source = some ref →
        s.fj.records = front ++ x :: rest → x.seq = ref.seq → x.kind = kind → x.source = source →
        (∀ y ∈ front ++ rest, y.seq ≠ ref.seq) →
        closeRecord kind source value s = { s with fj := { j with records :=
          front ++ { x with closedFlag := true, extra := s.msCounter - ref.timestamp } :: rest } }) ∧
      (∀ ref : OpenRef, s.fj.openRef kind source = some ref →
        (∀ y ∈ s.fj.records, ¬ (y.seq = ref.seq ∧ y.kind = kind ∧ y.source = source)) →
        closeRecord kind source value s = State.journalled { s with fj := j }
          { eventRecord s kind source value with closedFlag := true, extra := s.msCounter - ref.timestamp }) ∧
      (s.fj.openRef kind source = none →
        closeRecord kind source value s = State.journalled { s with fj := j }
          { eventRecord s kind source value with closedFlag := true })

/-- A read of the free ownership word by the control processor or the service port grants it and empties the reader's latch;
every other read is answered busy and changes nothing. A full write by the owner releases it; any other is one misuse. -/
def Obligations.OwnershipIsTakenByReadingAndReleasedByWriting : Prop :=
  ∀ (m : Master) (s : State), s.operating →
    (∀ x : BitVec 4,
      (m = .cp → s.fj.owner = .free → exec (.ownershipWordRead m x) s = .next (State.replied
        { s with fj := { s.fj with owner := .cp, readLatches := s.fj.readLatches.set 0 none } } m x 0)) ∧
      (m = .sp → s.fj.owner = .free → exec (.ownershipWordRead m x) s = .next (State.replied
        { s with fj := { s.fj with owner := .sp, readLatches := s.fj.readLatches.set 3 none } } m x 0)) ∧
      (m = .ts ∨ m = .dl → s.fj.owner = .free → exec (.ownershipWordRead m x) s = .next (s.replied m x 0x1)) ∧
      (s.fj.owner = .cp → exec (.ownershipWordRead m x) s = .next (s.replied m x 0x3)) ∧
      (s.fj.owner = .sp → exec (.ownershipWordRead m x) s = .next (s.replied m x 0x33))) ∧
    ∀ (lanes : Lanes) (value : Word),
      (lanes = 0xF → (m = .cp ∧ s.fj.owner = .cp) ∨ (m = .sp ∧ s.fj.owner = .sp) →
        exec (.ownershipWordWrite m lanes value) s = .next { s with fj := { s.fj with owner := .free } }) ∧
      (lanes ≠ 0xF ∨ ¬ ((m = .cp ∧ s.fj.owner = .cp) ∨ (m = .sp ∧ s.fj.owner = .sp)) →
        exec (.ownershipWordWrite m lanes value) s = .next (s.misused 0x420))

/-- A word 0 read latches a copy of the oldest record, or the NONE record numbered with the next number, and answers its word
0; a word 1 to 3 read answers from the latch, latching first when it is empty; a word 3 read by the owner with the held mark
set removes the latched record, clears its marks, and changes nothing else of the journal. The four words carry the record's
fields in their bits. -/
def Obligations.HeadWindowLatchesAndDrains : Prop :=
  (∀ r : Record,
    (recordWord r 0).toNat = r.seq.toNat + 2 ^ 16 * kindCode r.kind + 2 ^ 24 * (r.source % 32) ∧
    recordWord r 1 = r.timestamp ∧
    (recordWord r 2).toNat = (r.value % 65536).toNat + 2 ^ 16 * (r.repeats % 256) + 2 ^ 24 * seqStateCode r.seqState +
      2 ^ 27 * r.openFlag.toNat + 2 ^ 28 * r.closedFlag.toNat + 2 ^ 29 * r.automatic.toNat + 2 ^ 30 * r.noRf.toNat ∧
    recordWord r 3 = r.extra) ∧
  ∀ (m : Master) (x : BitVec 4) (s : State) (tag : Fin 4) (head : ReadLatch), s.operating → tag.val = masterTag m →
    head = (match s.fj.records with
      | r :: _ => { copy := r, held := true }
      | [] => { copy := { eventRecord s .none 0 0 with
          seq := s.fj.nextSeq, timestamp := 0, repeats := 0, seqState := .off }, held := false }) →
    exec (.headWindowWord0Read m x) s = .next (State.replied
      { s with fj := { s.fj with readLatches := s.fj.readLatches.set tag (some head) } } m x (recordWord head.copy 0)) ∧
    ∀ (w : Fin 4) (l : ReadLatch), w ≠ 0 → l = (s.fj.readLatches[tag]).getD head →
      (¬ (w = 3 ∧ ((m = .cp ∧ s.fj.owner = .cp) ∨ (m = .sp ∧ s.fj.owner = .sp)) ∧ l.held = true) →
        exec (.headWindowWordRead m w x) s = .next (State.replied
          { s with fj := { s.fj with readLatches := s.fj.readLatches.set tag (some l) } } m x (recordWord l.copy w))) ∧
      (w = 3 → (m = .cp ∧ s.fj.owner = .cp) ∨ (m = .sp ∧ s.fj.owner = .sp) → l.held = true →
        ∃ t, exec (.headWindowWordRead m w x) s = .next t ∧
          t = State.replied { s with fj := { s.fj with records := t.fj.records, readLatches := t.fj.readLatches } } m x
            l.copy.extra ∧
          t.fj.records = s.fj.records.filter (fun r => r.seq != l.copy.seq) ∧
          t.fj.readLatches[tag] = some { l with held := false } ∧
          ∀ other : Fin 4, other ≠ tag → t.fj.readLatches[other] =
            (s.fj.readLatches[other]).map fun y => { y with held := y.held && y.copy.seq != l.copy.seq })

/-- A control processor read of S0 answers with S0 as it stands, both flags in it, and then clears both. -/
def Obligations.StatusReadClearsBothFlags : Prop :=
  ∀ (x : BitVec 4) (s : State), s.operating →
    ∃ w : Word, exec (.cpS0Read x) s = .next (State.replied { s with
        fj := { s.fj with attention := false }, bp := { s.bp with expiryFlag := false } } .cp x w) ∧
      w.getLsbD 5 = s.fj.attention ∧ w.getLsbD 6 = s.bp.expiryFlag ∧ w = statusWord s 0 ∧
      w.toNat % 8 = seqStateCode s.sq.state ∧ w.toNat / 8 % 4 = destinationCode s.sq.destination ∧
      w.toNat / 256 % 128 = s.fj.records.length % 128 ∧ w.toNat / 65536 % 4 = ownerCode s.fj.owner ∧
      w.toNat / 1048576 % 4 = captureStateCode s.cap.state

/-- The capture aliases: in FROZEN a start read answers the first word of the run and sets the reader's cursor to 1, a
continue read the word at the cursor and moves it on, and past the end the end marker; in any other state, and for the
scanner and the drive link, the not-frozen reply, with no cursor moved. The run is the records in ring order, each its header
and its values two to a word. -/
def Obligations.CaptureReadsWalkTheFrozenRun : Prop :=
  (∀ f : FrameRecord, f.words.length = 1 + (f.values.length + 1) / 2 ∧
    (f.words.getD 0 0).toNat = f.seq.toNat + 2 ^ 8 * seqStateCode f.seqState + 2 ^ 11 * f.mark.toNat + 2 ^ 12 * (f.e % 4096) ∧
    (∀ (k : Nat) (v : Int), f.values[k]? = some v →
      (f.words.getD (1 + k / 2) 0).toNat / 65536 ^ (k % 2) % 65536 = (v % 65536).toNat) ∧
    (f.values.length % 2 = 1 → (f.words.getD (f.values.length / 2 + 1) 0).toNat / 65536 = 0)) ∧
  (∀ c : CaptureUnit, c.words = (c.ring.map FrameRecord.words).flatten) ∧
  ∀ (m : Master) (x : BitVec 4) (s : State) (cursor : Nat), s.operating →
    (s.cap.state = .frozen → m.commands → cursor = (if m = .cp then s.cap.cursorCp else s.cap.cursorSp) →
      (∀ (w : Word) (rest : List Word), s.cap.words = w :: rest →
        exec (.captureStartAliasRead m x) s = .next (State.replied { s with cap :=
          if m = .cp then { s.cap with cursorCp := 1 } else { s.cap with cursorSp := 1 } } m x w)) ∧
      (s.cap.words = [] → exec (.captureStartAliasRead m x) s = .next (State.replied { s with cap :=
          if m = .cp then { s.cap with cursorCp := 0 } else { s.cap with cursorSp := 0 } } m x 0xFFFFFFFF)) ∧
      (∀ h : cursor < s.cap.words.length, exec (.captureContinueAliasRead m x) s = .next (State.replied { s with cap :=
          if m = .cp then { s.cap with cursorCp := cursor + 1 } else { s.cap with cursorSp := cursor + 1 } } m x
          s.cap.words[cursor])) ∧
      (s.cap.words.length ≤ cursor →
        exec (.captureContinueAliasRead m x) s = .next (s.replied m x 0xFFFFFFFF))) ∧
    (s.cap.state ≠ .frozen ∨ ¬ m.commands →
      exec (.captureStartAliasRead m x) s = .next (s.replied m x 0xFFFFFFFE) ∧
      exec (.captureContinueAliasRead m x) s = .next (s.replied m x 0xFFFFFFFE))

/-- A bit of the summary word is set exactly when some mapped source names it and has the condition of its sense; the
source conditions are those of the table; the lines are those of the sequencer's state and of attention. A channel is
usable when it is present and not failed; the sensor condition and a module's cause SENSOR are a required unusable channel
among their channels. Source 7 is read from the records as they stand, also during an evaluation: the model's choice (log
entry 25). -/
def Obligations.SummaryBitsCollectTheirSources : Prop :=
  ∀ s : State,
    (∀ b : Fin 32, (summaryWord s).getLsbD b.val = true ↔
      ∃ n : Fin 32, s.lt.effective.summary[n].mapped = true ∧ s.lt.effective.summary[n].bit = b ∧
        sourceCondition s n = s.lt.effective.summary[n].sense) ∧
    (sourceCondition s 0 = true ↔ s.sq.state = .run) ∧ (sourceCondition s 1 = true ↔ s.sq.state = .mute) ∧
    (sourceCondition s 2 = true ↔ s.sq.state = .tripped) ∧ (sourceCondition s 3 = true ↔ s.sq.state = .off) ∧
    (sourceCondition s 4 = true ↔ s.cu.g < 4095) ∧ (sourceCondition s 5 = true ↔ s.mu.v < 4095) ∧
    sourceCondition s 6 = s.du.cooling ∧ sourceCondition s 7 = sensorCondition s.td.channels ∧
    (∀ m : Fin 8, sourceCondition s ⟨8 + m.val, by omega⟩ = s.mu.admission[m].gated ∧
      (sourceCondition s ⟨16 + m.val, by omega⟩ = true ↔ s.cu.cm[m] < 4095)) ∧
    (sourceCondition s 24 = true ↔ s.sq.primary = some .arcLockout ∨ .arcLockout ∈ s.sq.secondary) ∧
    sourceCondition s 25 = s.pins.interlockOpen ∧ (sourceCondition s 26 = true ↔ s.cap.state = .frozen) ∧
    (sourceCondition s 27 = true ↔ s.fj.records ≠ []) ∧
    (sourceCondition s 28 = true ↔ s.pins.resetAsserted = false ∧ s.sq.state ≠ .off ∧ s.sq.state ≠ .tripped) ∧
    sourceCondition s 29 = s.td.telemetryLost ∧ sourceCondition s 30 = s.fj.attention ∧
    sourceCondition s 31 = s.bp.expiryFlag ∧
    (s.muteLine = true ↔ s.pins.resetAsserted = true ∨ s.sq.state ≠ .run) ∧
    (s.supplyEnable = true ↔ s.pins.resetAsserted = false ∧ s.sq.state ≠ .off ∧ s.sq.state ≠ .tripped) ∧
    (s.attentionLine = true ↔ s.pins.resetAsserted = false ∧ s.fj.attention = true) ∧
    (∀ c : Fin 30, s.td.channels[c].usable = true ↔ s.td.channels[c].present = true ∧ s.td.channels[c].failed = false) ∧
    (sensorCondition s.td.channels = true ↔
      ∃ c : Fin 30, (c = 16 ∨ c = 17 ∨ c = 26 ∨ c = 27 ∨ c = 28 ∨ c = 29) ∧ s.td.channels[c].required = true ∧
        (s.td.channels[c].present = false ∨ s.td.channels[c].failed = true)) ∧
    ∀ m : Fin 8, (sensorCause s.td.channels m = true ↔
      ∃ c : Fin 30, (c.val = m.val ∨ c.val = 8 + m.val ∨ c.val = 18 + m.val) ∧ s.td.channels[c].required = true ∧
        (s.td.channels[c].present = false ∨ s.td.channels[c].failed = true))

/-! ### The bus -/

/-- Reads that change nothing: the effective view, the request words, the status words but for the control processor's
read of S0, and the capture status word are answered from the part, each field in its bits; a setpoint word read by
another master than the drive link, a telemetry slot, a limit entry's word, plain memory and every address outside the
region from memory, at once, which is the model's choice of memory's latency (log entry 28). -/
def Obligations.ServedWordsAreReadWithoutEffect : Prop :=
  ∀ (m : Master) (x : BitVec 4) (s : State), s.operating →
    (∀ k : Fin 256, busRead m (regionAddress s (0x200 + k.val)) x s =
      s.replied m x (effectiveView s.lt.effective k)) ∧
    (∀ k : Fin 8, busRead m (regionAddress s (0x400 + k.val)) x s = s.replied m x 0) ∧
    (∀ n : Fin 16, ¬ (n = 0 ∧ m = .cp) → busRead m (regionAddress s (0x430 + n.val)) x s = s.replied m x (statusWord s n)) ∧
    busRead m (regionAddress s 0x482) x s = s.replied m x (captureStatusWord s.cap) ∧
    (∀ offset : Nat, (offset < 0x011 ∧ m ≠ .dl) ∨ (0x011 ≤ offset ∧ offset < 0x200) ∨ (0x300 ≤ offset ∧ offset < 0x400) ∨
        (0x408 ≤ offset ∧ offset < 0x420) ∨ (0x421 ≤ offset ∧ offset < 0x430) ∨ (0x444 ≤ offset ∧ offset < 0x480) ∨
        (0x483 ≤ offset ∧ offset < 4096) →
      busRead m (regionAddress s offset) x s = s.replied m x (s.mem.readWord (regionAddress s offset))) ∧
    (∀ a : Address, a.toNat / 4096 ≠ s.bp.regionBase.toNat → busRead m a x s = s.replied m x (s.mem.readWord a)) ∧
    (∀ c : Fin 30,
      effectiveView s.lt.effective ⟨2 * c.val, by omega⟩ = channelWordA s.lt.effective.channels[c] ∧
      effectiveView s.lt.effective ⟨2 * c.val + 1, by omega⟩ = channelWordB s.lt.effective.channels[c]) ∧
    (∀ g : Fin 13,
      effectiveView s.lt.effective ⟨0xC0 + 2 * g.val, by omega⟩ = generalWordA s.lt.effective.general g ∧
      effectiveView s.lt.effective ⟨0xC1 + 2 * g.val, by omega⟩ = generalWordB s.lt.effective.general g) ∧
    (∀ i : Fin 16,
      effectiveView s.lt.effective ⟨0x40 + i.val, by omega⟩ = coarseWord s.lt.effective.modulesCurve[i] ∧
      effectiveView s.lt.effective ⟨0x50 + i.val, by omega⟩ = coarseWord s.lt.effective.coolantCurve[i] ∧
      effectiveView s.lt.effective ⟨0x60 + i.val, by omega⟩ = coarseWord s.lt.effective.filterCurve[i]) ∧
    (∀ f : Fin 64, effectiveView s.lt.effective ⟨0x80 + f.val, by omega⟩ = fineWord s.lt.effective.fine[f]) ∧
    (∀ n : Fin 32, effectiveView s.lt.effective ⟨0xE0 + n.val, by omega⟩ = mapWord s.lt.effective.summary[n]) ∧
    (∀ k : Fin 256, (0x3C ≤ k.val ∧ k.val < 0x40) ∨ (0x70 ≤ k.val ∧ k.val < 0x80) ∨ (0xDA ≤ k.val ∧ k.val < 0xE0) →
      effectiveView s.lt.effective k = 0) ∧
    (statusWord s 0).toNat = seqStateCode s.sq.state + 2 ^ 3 * destinationCode s.sq.destination +
      2 ^ 5 * s.fj.attention.toNat + 2 ^ 6 * s.bp.expiryFlag.toNat + 2 ^ 8 * (s.fj.records.length % 128) +
      2 ^ 16 * ownerCode s.fj.owner + 2 ^ 20 * captureStateCode s.cap.state ∧
    (statusWord s 1).toNat = causeCode s.sq.primary + 2 ^ 4 * causeCode s.sq.secondary[0]? +
      2 ^ 8 * causeCode s.sq.secondary[1]? + 2 ^ 12 * causeCode s.sq.secondary[2]? +
      2 ^ 16 * causeCode s.sq.secondary[3]? + 2 ^ 20 * (s.sq.secondary.length % 8) ∧
    (statusWord s 2).toNat = s.cu.e % 4096 + 2 ^ 16 * (s.cu.c % 4096) ∧
    (statusWord s 3).toNat = s.mu.v % 4096 + 2 ^ 16 * (s.cu.g % 4096) ∧
    (s.bp.lastRequest = none → statusWord s 4 = 0) ∧
    (∀ q, s.bp.lastRequest = some q → (statusWord s 4).toNat = requestCode q.request + 2 ^ 4 * masterTag q.master +
      2 ^ 8 * resultCode q.result + 2 ^ 12 * resultCause q.result) ∧
    (statusWord s 5).toNat = s.td.lastSeq.toNat + 2 ^ 8 * (s.td.abandoned % 256) + 2 ^ 16 * (s.td.discarded % 256) +
      2 ^ 24 * (s.td.orphans % 256) ∧
    (statusWord s 6).toNat = s.bp.misuseCount % 65536 + 2 ^ 16 * (s.bp.expiryCount % 65536) ∧
    (statusWord s 7).toNat = s.fj.overflow % 65536 + 2 ^ 16 * (s.am.strikes.length % 16) + 2 ^ 20 * s.bp.lastMisuse.toNat ∧
    (∀ i : Fin 8, (statusWord s 8).getLsbD i.val = s.mu.admission[i].gated) ∧
    (∀ k : Fin 11, (statusWord s 8).getLsbD (8 + k.val) = s.td.channels[thermalChannel k].derateOpen) ∧
    (statusWord s 8).toNat / 2 ^ 19 = 2 ^ 5 * (s.td.channels.toList.countP (fun r => r.failed) % 32) +
      2 ^ 12 * s.td.frameSeen.toNat ∧
    statusWord s 9 = summaryWord s ∧ statusWord s 10 = s.msCounter ∧
    (statusWord s 11).toNat = s.cu.em[0] % 4096 + 2 ^ 16 * (s.cu.em[1] % 4096) ∧
    (statusWord s 12).toNat = s.cu.em[2] % 4096 + 2 ^ 16 * (s.cu.em[3] % 4096) ∧
    (statusWord s 13).toNat = s.cu.em[4] % 4096 + 2 ^ 16 * (s.cu.em[5] % 4096) ∧
    (statusWord s 14).toNat = s.cu.em[6] % 4096 + 2 ^ 16 * (s.cu.em[7] % 4096) ∧
    (s.am.strikes = [] → statusWord s 15 = 0) ∧
    (∀ (x : Strike) (rest : List Strike), s.am.strikes = x :: rest → statusWord s 15 = x.timestamp) ∧
    (captureStatusWord s.cap).toNat = captureStateCode s.cap.state + 2 ^ 2 * captureModeCode s.cap.mode +
      2 ^ 3 * (s.cap.recordSize % 32) + 2 ^ 8 * (s.cap.ring.length % 4096) + 2 ^ 20 * (s.cap.preTrigger % 4096) ∧
    [TripKind.thermal, .cooling, .mismatch, .modules, .sensor, .arcLockout, .arcStuck, .telemetryLoss, .interlock].map
      tripCode = [1, 2, 3, 4, 5, 6, 7, 8, 9] ∧
    (∀ k : TripKind, kindCode (.trip k) = tripCode k ∧ causeCode (some k) = tripCode k ∧
      resultCode (.refusedCause k) = 2 ∧ resultCause (.refusedCause k) = tripCode k) ∧ causeCode none = 0 ∧
    [RecordKind.none, .arc, .foldback, .derate, .moduleGated, .moduleReadmitted, .channelFailed, .channelRestored,
      .telemetryGap, .frameOverrun, .restart, .stop].map kindCode = [0, 10, 11, 12, 13, 14, 15, 16, 17, 18, 19, 20] ∧
    [SeqState.off, .settle, .run, .mute, .discharge, .tripped].map seqStateCode = [0, 1, 2, 3, 4, 5] ∧
    [Destination.empty, .off, .tripped].map destinationCode = [0, 1, 2] ∧
    [Request.restart, .stop, .readmit, .strikeClear, .journalClear, .ownershipClear, .captureArm, .captureStop].map
      requestCode = [1, 2, 3, 4, 5, 6, 7, 8] ∧
    [RequestResult.accepted, .refusedState, .refusedMaster, .refusedArgument, .refusedOwner].map
      (fun r => (resultCode r, resultCause r)) = [(0, 0), (1, 0), (3, 0), (4, 0), (5, 0)] ∧
    [CaptureState.idle, .armed, .post, .frozen].map captureStateCode = [0, 1, 2, 3] ∧
    [CaptureMode.single, .continuous].map captureModeCode = [0, 1] ∧ [Owner.free, .cp, .sp].map ownerCode = [0, 1, 2] ∧
    [Master.cp, .ts, .dl, .sp].map masterTag = [0, 1, 2, 3]

/-- Writes the part does not act on: a write to a read-only served word is absorbed and counted once, and nothing else
changes; a write to plain memory, to the setpoint area or outside the region stores its lanes and changes no state of the
part; a write to the telemetry area or to a limit entry that is not interpreted stores its lanes and is counted once. That
lane i carries bits 8i to 8i + 7 (log entry 1, PRESUMED) and that ABSORBED_WRITE stands for any write (log entry 12) are
the model's own. -/
def Obligations.UninterpretedWritesAreAbsorbedOrForwarded : Prop :=
  ∀ (m : Master) (lanes : Lanes) (w : Word) (offset : Nat) (s : State), s.operating → s.mem.wf = true →
    offset < 4096 →
    ((0x200 ≤ offset ∧ offset < 0x300) ∨ (0x430 ≤ offset ∧ offset < 0x444) ∨ (0x480 ≤ offset ∧ offset < 0x483) →
      exec (.absorbedWrite m (regionAddress s offset) lanes w) s = .next (s.misused offset)) ∧
    (offset < 0x020 ∨ (0x040 ≤ offset ∧ offset < 0x100) ∨ (0x13C ≤ offset ∧ offset < 0x140) ∨
        (0x170 ≤ offset ∧ offset < 0x180) ∨ (0x1DA ≤ offset ∧ offset < 0x1E0) ∨ (0x300 ≤ offset ∧ offset < 0x400) ∨
        (0x408 ≤ offset ∧ offset < 0x420) ∨ (0x421 ≤ offset ∧ offset < 0x430) ∨
        (0x444 ≤ offset ∧ offset < 0x480) ∨ 0x483 ≤ offset →
      ∃ t, exec (.absorbedWrite m (regionAddress s offset) lanes w) s = .next t ∧ t = { s with mem := t.mem } ∧
        StoresLanes s t (regionAddress s offset) lanes w) ∧
    (∀ a : Address, a.toNat / 4096 ≠ s.bp.regionBase.toNat →
      ∃ t, exec (.absorbedWrite m a lanes w) s = .next t ∧ t = { s with mem := t.mem } ∧ StoresLanes s t a lanes w) ∧
    (0x020 ≤ offset → offset < 0x040 → m ≠ .ts ∨ lanes ≠ 0xF →
      ∃ t, exec (.absorbedWrite m (regionAddress s offset) lanes w) s = .next t ∧
        t = { s.misused offset with mem := t.mem } ∧ StoresLanes s t (regionAddress s offset) lanes w) ∧
    ((∃ e, offset = wordAOffset e ∨ offset = wordBOffset e) ∨ (∃ e, offset = oneWordOffset e) →
      ¬ m.commands ∨ lanes ≠ 0xF →
      ∃ t, exec (.absorbedWrite m (regionAddress s offset) lanes w) s = .next t ∧
        t = { s.misused offset with mem := t.mem } ∧ StoresLanes s t (regionAddress s offset) lanes w)

/-- During reset nothing is interpreted or served: every write stores its lanes and changes no state of the part, and
every read, by a row of its own or by any master of any address, is answered from memory and changes nothing else, but the
drive link's of a setpoint word, its offset reckoned from the straps as they stand, which is answered 0. That lane i carries bits 8i to 8i + 7 (log
entry 1, PRESUMED), that the rows' addresses are reckoned from the straps then (log entry 11), that ABSORBED_WRITE stands
for any write (log entry 12) and that memory answers at once (log entry 28) are the model's own. -/
def Obligations.ResetForwardsEveryAccess : Prop :=
  ∀ (m : Master) (lanes : Lanes) (w : Word) (s : State), s.pins.resetAsserted = true → s.mem.wf = true →
    (∀ (c : Instr) (a : Address) (used : Lanes),
      (c = .frameHeaderWrite w ∧ a = regionAddress s 0x020 ∧ used = 0xF) ∨
      (∃ slot : Fin 32, c = .dataSlotWrite slot w ∧ a = regionAddress s (0x020 + slot.val) ∧ used = 0xF) ∨
      (c = .frameEnd w ∧ a = regionAddress s 0x03F ∧ used = 0xF) ∨
      (∃ e, c = .limitWordAWrite m e w ∧ a = regionAddress s (wordAOffset e) ∧ used = 0xF) ∨
      (∃ e, c = .limitWordBWrite m e w ∧ a = regionAddress s (wordBOffset e) ∧ used = 0xF) ∨
      (∃ e, c = .limitOneWordWrite m e w ∧ a = regionAddress s (oneWordOffset e) ∧ used = 0xF) ∨
      (c = .restart m lanes w ∧ a = regionAddress s 0x400 ∧ used = lanes) ∨
      (c = .stop m lanes w ∧ a = regionAddress s 0x401 ∧ used = lanes) ∨
      (c = .readmit m lanes w ∧ a = regionAddress s 0x402 ∧ used = lanes) ∨
      (c = .strikeClear m lanes w ∧ a = regionAddress s 0x403 ∧ used = lanes) ∨
      (c = .journalClear m lanes w ∧ a = regionAddress s 0x404 ∧ used = lanes) ∨
      (c = .ownershipClear m lanes w ∧ a = regionAddress s 0x405 ∧ used = lanes) ∨
      (c = .captureArm m lanes w ∧ a = regionAddress s 0x406 ∧ used = lanes) ∨
      (c = .captureStop m lanes w ∧ a = regionAddress s 0x407 ∧ used = lanes) ∨
      (c = .ownershipWordWrite m lanes w ∧ a = regionAddress s 0x420 ∧ used = lanes) ∨
      (c = .absorbedWrite m a lanes w ∧ used = lanes) →
      ∃ t, exec c s = .next t ∧ t = { s with mem := t.mem } ∧ StoresLanes s t a used w) ∧
    (∀ (a : Address) (x : BitVec 4),
      (m = .dl ∧ a.toNat / 4096 = s.pins.straps.toNat ∧ a.toNat % 4096 < 0x011 →
        busRead m a x s = s.replied m x 0) ∧
      (m ≠ .dl ∨ a.toNat / 4096 ≠ s.pins.straps.toNat ∨ 0x011 ≤ a.toNat % 4096 →
        busRead m a x s = s.replied m x (s.mem.readWord a))) ∧
    ∀ x : BitVec 4,
      exec (.ownershipWordRead m x) s = .next (s.replied m x (s.mem.readWord (regionAddress s 0x420))) ∧
      exec (.headWindowWord0Read m x) s = .next (s.replied m x (s.mem.readWord (regionAddress s 0x440))) ∧
      (∀ k : Fin 4, exec (.headWindowWordRead m k x) s =
        .next (s.replied m x (s.mem.readWord (regionAddress s (0x440 + k.val))))) ∧
      exec (.cpS0Read x) s = .next (s.replied .cp x (s.mem.readWord (regionAddress s 0x430))) ∧
      exec (.captureStartAliasRead m x) s = .next (s.replied m x (s.mem.readWord (regionAddress s 0x480))) ∧
      exec (.captureContinueAliasRead m x) s = .next (s.replied m x (s.mem.readWord (regionAddress s 0x481)))

/-- The assertion of reset puts every block at its reset values, answers each held read with 0 in its drive or trim field
or as its gate word, and leaves memory and the other lines; the release takes the straps as the region base, lets each
asserted arc line start qualifying, and changes nothing else; the millisecond counter stands at 0 during reset and rises
by one, wrapping, at each tick outside it. What a held read carries outside its field then (log entry 14), every reset
value at the assertion (log entry 15) and the straps carried by the two commands (log entry 16) are the model's own. -/
def Obligations.ResetAndTheMillisecondCounter : Prop :=
  ∀ (straps : BitVec 8) (s : State),
    exec (.resetAssert straps) s = .next { State.reset with
      pins := { s.pins with resetAsserted := true, straps := straps }
      mem := s.mem
      replies := s.replies ++ s.bp.heldReads.map (fun h => {
        master := .dl
        transaction := h.transaction
        data := match h.word with
          | .exciter => s.mem.readWord (regionAddress s 0x000) >>> 16 <<< 16
          | .trim m => s.mem.readWord (regionAddress s (0x001 + m.val)) >>> 16 <<< 16
          | .gate _ => 0 })
      pending := s.pending } ∧
    (s.pins.resetAsserted = true → ∃ t, exec (.resetRelease straps) s = .next t ∧
      t = { s with
        pins := { s.pins with resetAsserted := false, straps := straps }
        bp := { s.bp with regionBase := straps }
        td := { s.td with telemetryLost := true }
        am := { s.am with inputs := t.am.inputs } } ∧
      ∀ i : Fin 3, t.am.inputs[i] = if s.pins.arcLines[i] = true ∧ s.am.inputs[i].filter = .idle then
        { s.am.inputs[i] with filter := .qualifying }
        else if s.pins.arcLines[i] = true ∧ s.am.inputs[i].filter = .releasing then
          { s.am.inputs[i] with filter := .held }
        else s.am.inputs[i]) ∧
    (s.operating → exec .millisecondCounterTick s = .next { s with msCounter := s.msCounter + 1 }) ∧
    (s.pins.resetAsserted = true → exec .millisecondCounterTick s = .next s)
end

