-- ==== Sys2Proof/Laws/Bits.lean ====
section
/-! SUPPORT. What the fields of a word read as, and the number a packed word stands for. -/

namespace Sys2Proof.Machine

/-- A field is the number its bits make. -/
theorem field_eq_extract (w : Word) (lo len : Nat) : field w lo len = (w.extractLsb' lo len).toNat := by
  simp [field, BitVec.extractLsb'_toNat, Nat.shiftRight_eq_div_pow]

/-- A field is below the power of two of its width. -/
theorem field_lt (w : Word) (lo len : Nat) : field w lo len < 2 ^ len := Nat.mod_lt _ (Nat.two_pow_pos len)

/-- A flag is its bit. -/
theorem flag_eq_getLsbD (w : Word) (i : Nat) : flag w i = w.getLsbD i := by
  simp only [flag, field, BitVec.getLsbD, Nat.testBit, Nat.shiftRight_eq_div_pow, pow_one,
    Nat.one_and_eq_mod_two]
  rcases Nat.mod_two_eq_zero_or_one (w.toNat / 2 ^ i) with h | h <;> simp [h]

/-- A signed field is the two's complement number its bits make. -/
theorem signedField_eq_extract (w : Word) (lo len : Nat) (h : 0 < len) :
    signedField w lo len = (w.extractLsb' lo len).toInt := by
  obtain ⟨n, rfl⟩ : ∃ n, len = n + 1 := ⟨len - 1, by omega⟩
  have hp : (2 : Nat) ^ (n + 1) = 2 * 2 ^ n := by rw [pow_succ, Nat.mul_comm]
  simp only [signedField, toSigned, field_eq_extract, BitVec.toInt_eq_toNat_cond, Nat.add_sub_cancel]
  generalize (w.extractLsb' lo (n + 1)).toNat = x
  split <;> split <;> first | (exfalso; omega) | rfl

@[simp] theorem packSum_nil : packSum [] = 0 := rfl

/-- One field more adds its value in its place. -/
@[simp] theorem packSum_cons (v lo len : Nat) (rest : List (Nat × Nat × Nat)) :
    packSum ((v, lo, len) :: rest) = v % 2 ^ len * 2 ^ lo + packSum rest := rfl

/-- A packed word stands for the sum of its fields in their places, where that is a word. -/
theorem pack_toNat (fields : List (Nat × Nat × Nat)) (n : Nat) (hs : packSum fields = n) (h : n < 2 ^ 32) :
    (pack fields).toNat = n := by
  rw [pack, BitVec.toNat_ofNat, hs, Nat.mod_eq_of_lt h]

/-- The 16-bit form of a number fits its field. -/
theorem signed16_lt (v : Int) : signed16 v < 65536 := by
  unfold signed16
  omega

theorem toNat_lt_two (b : Bool) : b.toNat < 2 := by cases b <;> decide

/-- Bit i of a mask's number is flag i, whatever stands above the mask. -/
theorem testBit_mask (n : Nat) (f : Fin n → Bool) (i : Fin n) (above : Nat) :
    (((List.finRange n).map fun k => (f k).toNat * 2 ^ k.val).sum + 2 ^ n * above).testBit i.val = f i := by
  induction n with
  | zero => exact i.elim0
  | succ n ih =>
    have hs : ((List.finRange (n + 1)).map fun k => (f k).toNat * 2 ^ k.val).sum + 2 ^ (n + 1) * above =
        (f 0).toNat +
          2 * (((List.finRange n).map fun k => (f k.succ).toNat * 2 ^ k.val).sum + 2 ^ n * above) := by
      have hm : (fun k : Fin n => (f k.succ).toNat * (2 ^ k.val * 2)) =
          fun k => 2 * ((f k.succ).toNat * 2 ^ k.val) := by
        funext k
        ring
      rw [List.finRange_succ, List.map_cons, List.sum_cons, List.map_map]
      simp only [Function.comp_def, Fin.val_zero, pow_zero, mul_one, Fin.val_succ, pow_succ]
      rw [hm, List.sum_map_mul_left]
      ring
    rw [hs]
    have hb : ((f 0).toNat + 2 * (((List.finRange n).map fun k => (f k.succ).toNat * 2 ^ k.val).sum + 2 ^ n * above)) / 2 =
        ((List.finRange n).map fun k => (f k.succ).toNat * 2 ^ k.val).sum + 2 ^ n * above := by
      have := toNat_lt_two (f 0)
      omega
    refine Fin.cases ?_ (fun j => ?_) i
    · rw [Fin.val_zero, Nat.testBit_zero]
      cases f 0 <;> simp [Nat.add_mul_mod_self_left]
    · rw [Fin.val_succ, Nat.testBit_succ, hb]
      exact ih (fun k => f k.succ) j

end Sys2Proof.Machine
end

