-- ==== Sys2Proof/Laws/State.lean ====
section
/-! SUPPORT. What each named update of the state leaves at each field. -/

namespace Sys2Proof.Machine

/-- Two states with equal fields are equal. -/
theorem State.eq_of_fields (s t : State) (h1 : s.td = t.td) (h2 : s.lt = t.lt) (h3 : s.du = t.du) (h4 : s.mu = t.mu)
    (h5 : s.cu = t.cu) (h6 : s.am = t.am) (h7 : s.sq = t.sq) (h8 : s.fj = t.fj) (h9 : s.cap = t.cap)
    (h10 : s.bp = t.bp) (h11 : s.pins = t.pins) (h12 : s.msCounter = t.msCounter) (h13 : s.mem = t.mem)
    (h14 : s.replies = t.replies) (h15 : s.pending = t.pending) : s = t := by
  cases s; cases t; simp_all

@[simp] theorem State.setTd_td (s : State) (x : TelemetryDecoder) : (s.setTd x).td = x := rfl
@[simp] theorem State.setTd_lt (s : State) (x : TelemetryDecoder) : (s.setTd x).lt = s.lt := rfl
@[simp] theorem State.setTd_du (s : State) (x : TelemetryDecoder) : (s.setTd x).du = s.du := rfl
@[simp] theorem State.setTd_mu (s : State) (x : TelemetryDecoder) : (s.setTd x).mu = s.mu := rfl
@[simp] theorem State.setTd_cu (s : State) (x : TelemetryDecoder) : (s.setTd x).cu = s.cu := rfl
@[simp] theorem State.setTd_am (s : State) (x : TelemetryDecoder) : (s.setTd x).am = s.am := rfl
@[simp] theorem State.setTd_sq (s : State) (x : TelemetryDecoder) : (s.setTd x).sq = s.sq := rfl
@[simp] theorem State.setTd_fj (s : State) (x : TelemetryDecoder) : (s.setTd x).fj = s.fj := rfl
@[simp] theorem State.setTd_cap (s : State) (x : TelemetryDecoder) : (s.setTd x).cap = s.cap := rfl
@[simp] theorem State.setTd_bp (s : State) (x : TelemetryDecoder) : (s.setTd x).bp = s.bp := rfl
@[simp] theorem State.setTd_pins (s : State) (x : TelemetryDecoder) : (s.setTd x).pins = s.pins := rfl
@[simp] theorem State.setTd_msCounter (s : State) (x : TelemetryDecoder) : (s.setTd x).msCounter = s.msCounter := rfl
@[simp] theorem State.setTd_mem (s : State) (x : TelemetryDecoder) : (s.setTd x).mem = s.mem := rfl
@[simp] theorem State.setTd_replies (s : State) (x : TelemetryDecoder) : (s.setTd x).replies = s.replies := rfl
@[simp] theorem State.setTd_pending (s : State) (x : TelemetryDecoder) : (s.setTd x).pending = s.pending := rfl

@[simp] theorem State.setLt_td (s : State) (x : LimitTable) : (s.setLt x).td = s.td := rfl
@[simp] theorem State.setLt_lt (s : State) (x : LimitTable) : (s.setLt x).lt = x := rfl
@[simp] theorem State.setLt_du (s : State) (x : LimitTable) : (s.setLt x).du = s.du := rfl
@[simp] theorem State.setLt_mu (s : State) (x : LimitTable) : (s.setLt x).mu = s.mu := rfl
@[simp] theorem State.setLt_cu (s : State) (x : LimitTable) : (s.setLt x).cu = s.cu := rfl
@[simp] theorem State.setLt_am (s : State) (x : LimitTable) : (s.setLt x).am = s.am := rfl
@[simp] theorem State.setLt_sq (s : State) (x : LimitTable) : (s.setLt x).sq = s.sq := rfl
@[simp] theorem State.setLt_fj (s : State) (x : LimitTable) : (s.setLt x).fj = s.fj := rfl
@[simp] theorem State.setLt_cap (s : State) (x : LimitTable) : (s.setLt x).cap = s.cap := rfl
@[simp] theorem State.setLt_bp (s : State) (x : LimitTable) : (s.setLt x).bp = s.bp := rfl
@[simp] theorem State.setLt_pins (s : State) (x : LimitTable) : (s.setLt x).pins = s.pins := rfl
@[simp] theorem State.setLt_msCounter (s : State) (x : LimitTable) : (s.setLt x).msCounter = s.msCounter := rfl
@[simp] theorem State.setLt_mem (s : State) (x : LimitTable) : (s.setLt x).mem = s.mem := rfl
@[simp] theorem State.setLt_replies (s : State) (x : LimitTable) : (s.setLt x).replies = s.replies := rfl
@[simp] theorem State.setLt_pending (s : State) (x : LimitTable) : (s.setLt x).pending = s.pending := rfl

@[simp] theorem State.setDu_td (s : State) (x : DeratingUnit) : (s.setDu x).td = s.td := rfl
@[simp] theorem State.setDu_lt (s : State) (x : DeratingUnit) : (s.setDu x).lt = s.lt := rfl
@[simp] theorem State.setDu_du (s : State) (x : DeratingUnit) : (s.setDu x).du = x := rfl
@[simp] theorem State.setDu_mu (s : State) (x : DeratingUnit) : (s.setDu x).mu = s.mu := rfl
@[simp] theorem State.setDu_cu (s : State) (x : DeratingUnit) : (s.setDu x).cu = s.cu := rfl
@[simp] theorem State.setDu_am (s : State) (x : DeratingUnit) : (s.setDu x).am = s.am := rfl
@[simp] theorem State.setDu_sq (s : State) (x : DeratingUnit) : (s.setDu x).sq = s.sq := rfl
@[simp] theorem State.setDu_fj (s : State) (x : DeratingUnit) : (s.setDu x).fj = s.fj := rfl
@[simp] theorem State.setDu_cap (s : State) (x : DeratingUnit) : (s.setDu x).cap = s.cap := rfl
@[simp] theorem State.setDu_bp (s : State) (x : DeratingUnit) : (s.setDu x).bp = s.bp := rfl
@[simp] theorem State.setDu_pins (s : State) (x : DeratingUnit) : (s.setDu x).pins = s.pins := rfl
@[simp] theorem State.setDu_msCounter (s : State) (x : DeratingUnit) : (s.setDu x).msCounter = s.msCounter := rfl
@[simp] theorem State.setDu_mem (s : State) (x : DeratingUnit) : (s.setDu x).mem = s.mem := rfl
@[simp] theorem State.setDu_replies (s : State) (x : DeratingUnit) : (s.setDu x).replies = s.replies := rfl
@[simp] theorem State.setDu_pending (s : State) (x : DeratingUnit) : (s.setDu x).pending = s.pending := rfl

@[simp] theorem State.setMu_td (s : State) (x : MismatchUnit) : (s.setMu x).td = s.td := rfl
@[simp] theorem State.setMu_lt (s : State) (x : MismatchUnit) : (s.setMu x).lt = s.lt := rfl
@[simp] theorem State.setMu_du (s : State) (x : MismatchUnit) : (s.setMu x).du = s.du := rfl
@[simp] theorem State.setMu_mu (s : State) (x : MismatchUnit) : (s.setMu x).mu = x := rfl
@[simp] theorem State.setMu_cu (s : State) (x : MismatchUnit) : (s.setMu x).cu = s.cu := rfl
@[simp] theorem State.setMu_am (s : State) (x : MismatchUnit) : (s.setMu x).am = s.am := rfl
@[simp] theorem State.setMu_sq (s : State) (x : MismatchUnit) : (s.setMu x).sq = s.sq := rfl
@[simp] theorem State.setMu_fj (s : State) (x : MismatchUnit) : (s.setMu x).fj = s.fj := rfl
@[simp] theorem State.setMu_cap (s : State) (x : MismatchUnit) : (s.setMu x).cap = s.cap := rfl
@[simp] theorem State.setMu_bp (s : State) (x : MismatchUnit) : (s.setMu x).bp = s.bp := rfl
@[simp] theorem State.setMu_pins (s : State) (x : MismatchUnit) : (s.setMu x).pins = s.pins := rfl
@[simp] theorem State.setMu_msCounter (s : State) (x : MismatchUnit) : (s.setMu x).msCounter = s.msCounter := rfl
@[simp] theorem State.setMu_mem (s : State) (x : MismatchUnit) : (s.setMu x).mem = s.mem := rfl
@[simp] theorem State.setMu_replies (s : State) (x : MismatchUnit) : (s.setMu x).replies = s.replies := rfl
@[simp] theorem State.setMu_pending (s : State) (x : MismatchUnit) : (s.setMu x).pending = s.pending := rfl

@[simp] theorem State.setCu_td (s : State) (x : CeilingUnit) : (s.setCu x).td = s.td := rfl
@[simp] theorem State.setCu_lt (s : State) (x : CeilingUnit) : (s.setCu x).lt = s.lt := rfl
@[simp] theorem State.setCu_du (s : State) (x : CeilingUnit) : (s.setCu x).du = s.du := rfl
@[simp] theorem State.setCu_mu (s : State) (x : CeilingUnit) : (s.setCu x).mu = s.mu := rfl
@[simp] theorem State.setCu_cu (s : State) (x : CeilingUnit) : (s.setCu x).cu = x := rfl
@[simp] theorem State.setCu_am (s : State) (x : CeilingUnit) : (s.setCu x).am = s.am := rfl
@[simp] theorem State.setCu_sq (s : State) (x : CeilingUnit) : (s.setCu x).sq = s.sq := rfl
@[simp] theorem State.setCu_fj (s : State) (x : CeilingUnit) : (s.setCu x).fj = s.fj := rfl
@[simp] theorem State.setCu_cap (s : State) (x : CeilingUnit) : (s.setCu x).cap = s.cap := rfl
@[simp] theorem State.setCu_bp (s : State) (x : CeilingUnit) : (s.setCu x).bp = s.bp := rfl
@[simp] theorem State.setCu_pins (s : State) (x : CeilingUnit) : (s.setCu x).pins = s.pins := rfl
@[simp] theorem State.setCu_msCounter (s : State) (x : CeilingUnit) : (s.setCu x).msCounter = s.msCounter := rfl
@[simp] theorem State.setCu_mem (s : State) (x : CeilingUnit) : (s.setCu x).mem = s.mem := rfl
@[simp] theorem State.setCu_replies (s : State) (x : CeilingUnit) : (s.setCu x).replies = s.replies := rfl
@[simp] theorem State.setCu_pending (s : State) (x : CeilingUnit) : (s.setCu x).pending = s.pending := rfl

@[simp] theorem State.setAm_td (s : State) (x : ArcMonitor) : (s.setAm x).td = s.td := rfl
@[simp] theorem State.setAm_lt (s : State) (x : ArcMonitor) : (s.setAm x).lt = s.lt := rfl
@[simp] theorem State.setAm_du (s : State) (x : ArcMonitor) : (s.setAm x).du = s.du := rfl
@[simp] theorem State.setAm_mu (s : State) (x : ArcMonitor) : (s.setAm x).mu = s.mu := rfl
@[simp] theorem State.setAm_cu (s : State) (x : ArcMonitor) : (s.setAm x).cu = s.cu := rfl
@[simp] theorem State.setAm_am (s : State) (x : ArcMonitor) : (s.setAm x).am = x := rfl
@[simp] theorem State.setAm_sq (s : State) (x : ArcMonitor) : (s.setAm x).sq = s.sq := rfl
@[simp] theorem State.setAm_fj (s : State) (x : ArcMonitor) : (s.setAm x).fj = s.fj := rfl
@[simp] theorem State.setAm_cap (s : State) (x : ArcMonitor) : (s.setAm x).cap = s.cap := rfl
@[simp] theorem State.setAm_bp (s : State) (x : ArcMonitor) : (s.setAm x).bp = s.bp := rfl
@[simp] theorem State.setAm_pins (s : State) (x : ArcMonitor) : (s.setAm x).pins = s.pins := rfl
@[simp] theorem State.setAm_msCounter (s : State) (x : ArcMonitor) : (s.setAm x).msCounter = s.msCounter := rfl
@[simp] theorem State.setAm_mem (s : State) (x : ArcMonitor) : (s.setAm x).mem = s.mem := rfl
@[simp] theorem State.setAm_replies (s : State) (x : ArcMonitor) : (s.setAm x).replies = s.replies := rfl
@[simp] theorem State.setAm_pending (s : State) (x : ArcMonitor) : (s.setAm x).pending = s.pending := rfl

@[simp] theorem State.setSq_td (s : State) (x : Sequencer) : (s.setSq x).td = s.td := rfl
@[simp] theorem State.setSq_lt (s : State) (x : Sequencer) : (s.setSq x).lt = s.lt := rfl
@[simp] theorem State.setSq_du (s : State) (x : Sequencer) : (s.setSq x).du = s.du := rfl
@[simp] theorem State.setSq_mu (s : State) (x : Sequencer) : (s.setSq x).mu = s.mu := rfl
@[simp] theorem State.setSq_cu (s : State) (x : Sequencer) : (s.setSq x).cu = s.cu := rfl
@[simp] theorem State.setSq_am (s : State) (x : Sequencer) : (s.setSq x).am = s.am := rfl
@[simp] theorem State.setSq_sq (s : State) (x : Sequencer) : (s.setSq x).sq = x := rfl
@[simp] theorem State.setSq_fj (s : State) (x : Sequencer) : (s.setSq x).fj = s.fj := rfl
@[simp] theorem State.setSq_cap (s : State) (x : Sequencer) : (s.setSq x).cap = s.cap := rfl
@[simp] theorem State.setSq_bp (s : State) (x : Sequencer) : (s.setSq x).bp = s.bp := rfl
@[simp] theorem State.setSq_pins (s : State) (x : Sequencer) : (s.setSq x).pins = s.pins := rfl
@[simp] theorem State.setSq_msCounter (s : State) (x : Sequencer) : (s.setSq x).msCounter = s.msCounter := rfl
@[simp] theorem State.setSq_mem (s : State) (x : Sequencer) : (s.setSq x).mem = s.mem := rfl
@[simp] theorem State.setSq_replies (s : State) (x : Sequencer) : (s.setSq x).replies = s.replies := rfl
@[simp] theorem State.setSq_pending (s : State) (x : Sequencer) : (s.setSq x).pending = s.pending := rfl

@[simp] theorem State.setFj_td (s : State) (x : FaultJournal) : (s.setFj x).td = s.td := rfl
@[simp] theorem State.setFj_lt (s : State) (x : FaultJournal) : (s.setFj x).lt = s.lt := rfl
@[simp] theorem State.setFj_du (s : State) (x : FaultJournal) : (s.setFj x).du = s.du := rfl
@[simp] theorem State.setFj_mu (s : State) (x : FaultJournal) : (s.setFj x).mu = s.mu := rfl
@[simp] theorem State.setFj_cu (s : State) (x : FaultJournal) : (s.setFj x).cu = s.cu := rfl
@[simp] theorem State.setFj_am (s : State) (x : FaultJournal) : (s.setFj x).am = s.am := rfl
@[simp] theorem State.setFj_sq (s : State) (x : FaultJournal) : (s.setFj x).sq = s.sq := rfl
@[simp] theorem State.setFj_fj (s : State) (x : FaultJournal) : (s.setFj x).fj = x := rfl
@[simp] theorem State.setFj_cap (s : State) (x : FaultJournal) : (s.setFj x).cap = s.cap := rfl
@[simp] theorem State.setFj_bp (s : State) (x : FaultJournal) : (s.setFj x).bp = s.bp := rfl
@[simp] theorem State.setFj_pins (s : State) (x : FaultJournal) : (s.setFj x).pins = s.pins := rfl
@[simp] theorem State.setFj_msCounter (s : State) (x : FaultJournal) : (s.setFj x).msCounter = s.msCounter := rfl
@[simp] theorem State.setFj_mem (s : State) (x : FaultJournal) : (s.setFj x).mem = s.mem := rfl
@[simp] theorem State.setFj_replies (s : State) (x : FaultJournal) : (s.setFj x).replies = s.replies := rfl
@[simp] theorem State.setFj_pending (s : State) (x : FaultJournal) : (s.setFj x).pending = s.pending := rfl

@[simp] theorem State.setCap_td (s : State) (x : CaptureUnit) : (s.setCap x).td = s.td := rfl
@[simp] theorem State.setCap_lt (s : State) (x : CaptureUnit) : (s.setCap x).lt = s.lt := rfl
@[simp] theorem State.setCap_du (s : State) (x : CaptureUnit) : (s.setCap x).du = s.du := rfl
@[simp] theorem State.setCap_mu (s : State) (x : CaptureUnit) : (s.setCap x).mu = s.mu := rfl
@[simp] theorem State.setCap_cu (s : State) (x : CaptureUnit) : (s.setCap x).cu = s.cu := rfl
@[simp] theorem State.setCap_am (s : State) (x : CaptureUnit) : (s.setCap x).am = s.am := rfl
@[simp] theorem State.setCap_sq (s : State) (x : CaptureUnit) : (s.setCap x).sq = s.sq := rfl
@[simp] theorem State.setCap_fj (s : State) (x : CaptureUnit) : (s.setCap x).fj = s.fj := rfl
@[simp] theorem State.setCap_cap (s : State) (x : CaptureUnit) : (s.setCap x).cap = x := rfl
@[simp] theorem State.setCap_bp (s : State) (x : CaptureUnit) : (s.setCap x).bp = s.bp := rfl
@[simp] theorem State.setCap_pins (s : State) (x : CaptureUnit) : (s.setCap x).pins = s.pins := rfl
@[simp] theorem State.setCap_msCounter (s : State) (x : CaptureUnit) : (s.setCap x).msCounter = s.msCounter := rfl
@[simp] theorem State.setCap_mem (s : State) (x : CaptureUnit) : (s.setCap x).mem = s.mem := rfl
@[simp] theorem State.setCap_replies (s : State) (x : CaptureUnit) : (s.setCap x).replies = s.replies := rfl
@[simp] theorem State.setCap_pending (s : State) (x : CaptureUnit) : (s.setCap x).pending = s.pending := rfl

@[simp] theorem State.setBp_td (s : State) (x : BusPassage) : (s.setBp x).td = s.td := rfl
@[simp] theorem State.setBp_lt (s : State) (x : BusPassage) : (s.setBp x).lt = s.lt := rfl
@[simp] theorem State.setBp_du (s : State) (x : BusPassage) : (s.setBp x).du = s.du := rfl
@[simp] theorem State.setBp_mu (s : State) (x : BusPassage) : (s.setBp x).mu = s.mu := rfl
@[simp] theorem State.setBp_cu (s : State) (x : BusPassage) : (s.setBp x).cu = s.cu := rfl
@[simp] theorem State.setBp_am (s : State) (x : BusPassage) : (s.setBp x).am = s.am := rfl
@[simp] theorem State.setBp_sq (s : State) (x : BusPassage) : (s.setBp x).sq = s.sq := rfl
@[simp] theorem State.setBp_fj (s : State) (x : BusPassage) : (s.setBp x).fj = s.fj := rfl
@[simp] theorem State.setBp_cap (s : State) (x : BusPassage) : (s.setBp x).cap = s.cap := rfl
@[simp] theorem State.setBp_bp (s : State) (x : BusPassage) : (s.setBp x).bp = x := rfl
@[simp] theorem State.setBp_pins (s : State) (x : BusPassage) : (s.setBp x).pins = s.pins := rfl
@[simp] theorem State.setBp_msCounter (s : State) (x : BusPassage) : (s.setBp x).msCounter = s.msCounter := rfl
@[simp] theorem State.setBp_mem (s : State) (x : BusPassage) : (s.setBp x).mem = s.mem := rfl
@[simp] theorem State.setBp_replies (s : State) (x : BusPassage) : (s.setBp x).replies = s.replies := rfl
@[simp] theorem State.setBp_pending (s : State) (x : BusPassage) : (s.setBp x).pending = s.pending := rfl

@[simp] theorem State.setPins_td (s : State) (x : Pins) : (s.setPins x).td = s.td := rfl
@[simp] theorem State.setPins_lt (s : State) (x : Pins) : (s.setPins x).lt = s.lt := rfl
@[simp] theorem State.setPins_du (s : State) (x : Pins) : (s.setPins x).du = s.du := rfl
@[simp] theorem State.setPins_mu (s : State) (x : Pins) : (s.setPins x).mu = s.mu := rfl
@[simp] theorem State.setPins_cu (s : State) (x : Pins) : (s.setPins x).cu = s.cu := rfl
@[simp] theorem State.setPins_am (s : State) (x : Pins) : (s.setPins x).am = s.am := rfl
@[simp] theorem State.setPins_sq (s : State) (x : Pins) : (s.setPins x).sq = s.sq := rfl
@[simp] theorem State.setPins_fj (s : State) (x : Pins) : (s.setPins x).fj = s.fj := rfl
@[simp] theorem State.setPins_cap (s : State) (x : Pins) : (s.setPins x).cap = s.cap := rfl
@[simp] theorem State.setPins_bp (s : State) (x : Pins) : (s.setPins x).bp = s.bp := rfl
@[simp] theorem State.setPins_pins (s : State) (x : Pins) : (s.setPins x).pins = x := rfl
@[simp] theorem State.setPins_msCounter (s : State) (x : Pins) : (s.setPins x).msCounter = s.msCounter := rfl
@[simp] theorem State.setPins_mem (s : State) (x : Pins) : (s.setPins x).mem = s.mem := rfl
@[simp] theorem State.setPins_replies (s : State) (x : Pins) : (s.setPins x).replies = s.replies := rfl
@[simp] theorem State.setPins_pending (s : State) (x : Pins) : (s.setPins x).pending = s.pending := rfl

@[simp] theorem State.setMem_td (s : State) (x : Memory) : (s.setMem x).td = s.td := rfl
@[simp] theorem State.setMem_lt (s : State) (x : Memory) : (s.setMem x).lt = s.lt := rfl
@[simp] theorem State.setMem_du (s : State) (x : Memory) : (s.setMem x).du = s.du := rfl
@[simp] theorem State.setMem_mu (s : State) (x : Memory) : (s.setMem x).mu = s.mu := rfl
@[simp] theorem State.setMem_cu (s : State) (x : Memory) : (s.setMem x).cu = s.cu := rfl
@[simp] theorem State.setMem_am (s : State) (x : Memory) : (s.setMem x).am = s.am := rfl
@[simp] theorem State.setMem_sq (s : State) (x : Memory) : (s.setMem x).sq = s.sq := rfl
@[simp] theorem State.setMem_fj (s : State) (x : Memory) : (s.setMem x).fj = s.fj := rfl
@[simp] theorem State.setMem_cap (s : State) (x : Memory) : (s.setMem x).cap = s.cap := rfl
@[simp] theorem State.setMem_bp (s : State) (x : Memory) : (s.setMem x).bp = s.bp := rfl
@[simp] theorem State.setMem_pins (s : State) (x : Memory) : (s.setMem x).pins = s.pins := rfl
@[simp] theorem State.setMem_msCounter (s : State) (x : Memory) : (s.setMem x).msCounter = s.msCounter := rfl
@[simp] theorem State.setMem_mem (s : State) (x : Memory) : (s.setMem x).mem = x := rfl
@[simp] theorem State.setMem_replies (s : State) (x : Memory) : (s.setMem x).replies = s.replies := rfl
@[simp] theorem State.setMem_pending (s : State) (x : Memory) : (s.setMem x).pending = s.pending := rfl

@[simp] theorem State.reply_td (s : State) (m : Master) (t : BitVec 4) (d : Word) : (s.reply m t d).td = s.td := rfl
@[simp] theorem State.reply_lt (s : State) (m : Master) (t : BitVec 4) (d : Word) : (s.reply m t d).lt = s.lt := rfl
@[simp] theorem State.reply_du (s : State) (m : Master) (t : BitVec 4) (d : Word) : (s.reply m t d).du = s.du := rfl
@[simp] theorem State.reply_mu (s : State) (m : Master) (t : BitVec 4) (d : Word) : (s.reply m t d).mu = s.mu := rfl
@[simp] theorem State.reply_cu (s : State) (m : Master) (t : BitVec 4) (d : Word) : (s.reply m t d).cu = s.cu := rfl
@[simp] theorem State.reply_am (s : State) (m : Master) (t : BitVec 4) (d : Word) : (s.reply m t d).am = s.am := rfl
@[simp] theorem State.reply_sq (s : State) (m : Master) (t : BitVec 4) (d : Word) : (s.reply m t d).sq = s.sq := rfl
@[simp] theorem State.reply_fj (s : State) (m : Master) (t : BitVec 4) (d : Word) : (s.reply m t d).fj = s.fj := rfl
@[simp] theorem State.reply_cap (s : State) (m : Master) (t : BitVec 4) (d : Word) : (s.reply m t d).cap = s.cap := rfl
@[simp] theorem State.reply_bp (s : State) (m : Master) (t : BitVec 4) (d : Word) : (s.reply m t d).bp = s.bp := rfl
@[simp] theorem State.reply_pins (s : State) (m : Master) (t : BitVec 4) (d : Word) : (s.reply m t d).pins = s.pins := rfl
@[simp] theorem State.reply_msCounter (s : State) (m : Master) (t : BitVec 4) (d : Word) : (s.reply m t d).msCounter = s.msCounter := rfl
@[simp] theorem State.reply_mem (s : State) (m : Master) (t : BitVec 4) (d : Word) : (s.reply m t d).mem = s.mem := rfl
@[simp] theorem State.reply_replies (s : State) (m : Master) (t : BitVec 4) (d : Word) : (s.reply m t d).replies = s.replies ++ [Reply.mk m t d] := rfl
@[simp] theorem State.reply_pending (s : State) (m : Master) (t : BitVec 4) (d : Word) : (s.reply m t d).pending = s.pending := rfl

@[simp] theorem State.forwardWrite_td (s : State) (a : Address) (lanes : Lanes) (w : Word) : (s.forwardWrite a lanes w).td = s.td := rfl
@[simp] theorem State.forwardWrite_lt (s : State) (a : Address) (lanes : Lanes) (w : Word) : (s.forwardWrite a lanes w).lt = s.lt := rfl
@[simp] theorem State.forwardWrite_du (s : State) (a : Address) (lanes : Lanes) (w : Word) : (s.forwardWrite a lanes w).du = s.du := rfl
@[simp] theorem State.forwardWrite_mu (s : State) (a : Address) (lanes : Lanes) (w : Word) : (s.forwardWrite a lanes w).mu = s.mu := rfl
@[simp] theorem State.forwardWrite_cu (s : State) (a : Address) (lanes : Lanes) (w : Word) : (s.forwardWrite a lanes w).cu = s.cu := rfl
@[simp] theorem State.forwardWrite_am (s : State) (a : Address) (lanes : Lanes) (w : Word) : (s.forwardWrite a lanes w).am = s.am := rfl
@[simp] theorem State.forwardWrite_sq (s : State) (a : Address) (lanes : Lanes) (w : Word) : (s.forwardWrite a lanes w).sq = s.sq := rfl
@[simp] theorem State.forwardWrite_fj (s : State) (a : Address) (lanes : Lanes) (w : Word) : (s.forwardWrite a lanes w).fj = s.fj := rfl
@[simp] theorem State.forwardWrite_cap (s : State) (a : Address) (lanes : Lanes) (w : Word) : (s.forwardWrite a lanes w).cap = s.cap := rfl
@[simp] theorem State.forwardWrite_bp (s : State) (a : Address) (lanes : Lanes) (w : Word) : (s.forwardWrite a lanes w).bp = s.bp := rfl
@[simp] theorem State.forwardWrite_pins (s : State) (a : Address) (lanes : Lanes) (w : Word) : (s.forwardWrite a lanes w).pins = s.pins := rfl
@[simp] theorem State.forwardWrite_msCounter (s : State) (a : Address) (lanes : Lanes) (w : Word) : (s.forwardWrite a lanes w).msCounter = s.msCounter := rfl
@[simp] theorem State.forwardWrite_mem (s : State) (a : Address) (lanes : Lanes) (w : Word) : (s.forwardWrite a lanes w).mem = s.mem.writeWord a lanes w := rfl
@[simp] theorem State.forwardWrite_replies (s : State) (a : Address) (lanes : Lanes) (w : Word) : (s.forwardWrite a lanes w).replies = s.replies := rfl
@[simp] theorem State.forwardWrite_pending (s : State) (a : Address) (lanes : Lanes) (w : Word) : (s.forwardWrite a lanes w).pending = s.pending := rfl

@[simp] theorem State.forwardRead_td (s : State) (m : Master) (t : BitVec 4) (a : Address) : (s.forwardRead m t a).td = s.td := rfl
@[simp] theorem State.forwardRead_lt (s : State) (m : Master) (t : BitVec 4) (a : Address) : (s.forwardRead m t a).lt = s.lt := rfl
@[simp] theorem State.forwardRead_du (s : State) (m : Master) (t : BitVec 4) (a : Address) : (s.forwardRead m t a).du = s.du := rfl
@[simp] theorem State.forwardRead_mu (s : State) (m : Master) (t : BitVec 4) (a : Address) : (s.forwardRead m t a).mu = s.mu := rfl
@[simp] theorem State.forwardRead_cu (s : State) (m : Master) (t : BitVec 4) (a : Address) : (s.forwardRead m t a).cu = s.cu := rfl
@[simp] theorem State.forwardRead_am (s : State) (m : Master) (t : BitVec 4) (a : Address) : (s.forwardRead m t a).am = s.am := rfl
@[simp] theorem State.forwardRead_sq (s : State) (m : Master) (t : BitVec 4) (a : Address) : (s.forwardRead m t a).sq = s.sq := rfl
@[simp] theorem State.forwardRead_fj (s : State) (m : Master) (t : BitVec 4) (a : Address) : (s.forwardRead m t a).fj = s.fj := rfl
@[simp] theorem State.forwardRead_cap (s : State) (m : Master) (t : BitVec 4) (a : Address) : (s.forwardRead m t a).cap = s.cap := rfl
@[simp] theorem State.forwardRead_bp (s : State) (m : Master) (t : BitVec 4) (a : Address) : (s.forwardRead m t a).bp = s.bp := rfl
@[simp] theorem State.forwardRead_pins (s : State) (m : Master) (t : BitVec 4) (a : Address) : (s.forwardRead m t a).pins = s.pins := rfl
@[simp] theorem State.forwardRead_msCounter (s : State) (m : Master) (t : BitVec 4) (a : Address) : (s.forwardRead m t a).msCounter = s.msCounter := rfl
@[simp] theorem State.forwardRead_mem (s : State) (m : Master) (t : BitVec 4) (a : Address) : (s.forwardRead m t a).mem = s.mem := rfl
@[simp] theorem State.forwardRead_replies (s : State) (m : Master) (t : BitVec 4) (a : Address) : (s.forwardRead m t a).replies = s.replies ++ [Reply.mk m t (s.mem.readWord a)] := rfl
@[simp] theorem State.forwardRead_pending (s : State) (m : Master) (t : BitVec 4) (a : Address) : (s.forwardRead m t a).pending = s.pending := rfl

@[simp] theorem State.misuse_td (s : State) (o : Nat) : (s.misuse o).td = s.td := rfl
@[simp] theorem State.misuse_lt (s : State) (o : Nat) : (s.misuse o).lt = s.lt := rfl
@[simp] theorem State.misuse_du (s : State) (o : Nat) : (s.misuse o).du = s.du := rfl
@[simp] theorem State.misuse_mu (s : State) (o : Nat) : (s.misuse o).mu = s.mu := rfl
@[simp] theorem State.misuse_cu (s : State) (o : Nat) : (s.misuse o).cu = s.cu := rfl
@[simp] theorem State.misuse_am (s : State) (o : Nat) : (s.misuse o).am = s.am := rfl
@[simp] theorem State.misuse_sq (s : State) (o : Nat) : (s.misuse o).sq = s.sq := rfl
@[simp] theorem State.misuse_fj (s : State) (o : Nat) : (s.misuse o).fj = s.fj := rfl
@[simp] theorem State.misuse_cap (s : State) (o : Nat) : (s.misuse o).cap = s.cap := rfl
@[simp] theorem State.misuse_bp (s : State) (o : Nat) : (s.misuse o).bp = { s.bp with misuseCount := countUp 65535 s.bp.misuseCount, lastMisuse := BitVec.ofNat 12 o } := rfl
@[simp] theorem State.misuse_pins (s : State) (o : Nat) : (s.misuse o).pins = s.pins := rfl
@[simp] theorem State.misuse_msCounter (s : State) (o : Nat) : (s.misuse o).msCounter = s.msCounter := rfl
@[simp] theorem State.misuse_mem (s : State) (o : Nat) : (s.misuse o).mem = s.mem := rfl
@[simp] theorem State.misuse_replies (s : State) (o : Nat) : (s.misuse o).replies = s.replies := rfl
@[simp] theorem State.misuse_pending (s : State) (o : Nat) : (s.misuse o).pending = s.pending := rfl

@[simp] theorem State.setS4_td (s : State) (r : Request) (m : Master) (res : RequestResult) : (s.setS4 r m res).td = s.td := rfl
@[simp] theorem State.setS4_lt (s : State) (r : Request) (m : Master) (res : RequestResult) : (s.setS4 r m res).lt = s.lt := rfl
@[simp] theorem State.setS4_du (s : State) (r : Request) (m : Master) (res : RequestResult) : (s.setS4 r m res).du = s.du := rfl
@[simp] theorem State.setS4_mu (s : State) (r : Request) (m : Master) (res : RequestResult) : (s.setS4 r m res).mu = s.mu := rfl
@[simp] theorem State.setS4_cu (s : State) (r : Request) (m : Master) (res : RequestResult) : (s.setS4 r m res).cu = s.cu := rfl
@[simp] theorem State.setS4_am (s : State) (r : Request) (m : Master) (res : RequestResult) : (s.setS4 r m res).am = s.am := rfl
@[simp] theorem State.setS4_sq (s : State) (r : Request) (m : Master) (res : RequestResult) : (s.setS4 r m res).sq = s.sq := rfl
@[simp] theorem State.setS4_fj (s : State) (r : Request) (m : Master) (res : RequestResult) : (s.setS4 r m res).fj = s.fj := rfl
@[simp] theorem State.setS4_cap (s : State) (r : Request) (m : Master) (res : RequestResult) : (s.setS4 r m res).cap = s.cap := rfl
@[simp] theorem State.setS4_bp (s : State) (r : Request) (m : Master) (res : RequestResult) : (s.setS4 r m res).bp = { s.bp with lastRequest := some { request := r, master := m, result := res } } := rfl
@[simp] theorem State.setS4_pins (s : State) (r : Request) (m : Master) (res : RequestResult) : (s.setS4 r m res).pins = s.pins := rfl
@[simp] theorem State.setS4_msCounter (s : State) (r : Request) (m : Master) (res : RequestResult) : (s.setS4 r m res).msCounter = s.msCounter := rfl
@[simp] theorem State.setS4_mem (s : State) (r : Request) (m : Master) (res : RequestResult) : (s.setS4 r m res).mem = s.mem := rfl
@[simp] theorem State.setS4_replies (s : State) (r : Request) (m : Master) (res : RequestResult) : (s.setS4 r m res).replies = s.replies := rfl
@[simp] theorem State.setS4_pending (s : State) (r : Request) (m : Master) (res : RequestResult) : (s.setS4 r m res).pending = s.pending := rfl

end Sys2Proof.Machine
end

