-- ==== Sys2Proof/Laws/Frames.lean ====
section
/-! SUPPORT. What each shared operation leaves alone: one lemma for each field it does not touch. -/

namespace Sys2Proof.Machine

/-- A field that each step of a fold keeps, the fold keeps. -/
theorem foldl_keeps {β γ : Type} (f : State → β → State) (g : State → γ) (h : ∀ t b, g (f t b) = g t) (l : List β)
    (s : State) : g (l.foldl f s) = g s := by
  induction l generalizing s with
  | nil => rfl
  | cons b l ih => rw [List.foldl_cons, ih, h]

@[simp] theorem addRecord_td (s : State) (r : Record) : (addRecord r s).td = s.td := rfl
@[simp] theorem addRecord_lt (s : State) (r : Record) : (addRecord r s).lt = s.lt := rfl
@[simp] theorem addRecord_du (s : State) (r : Record) : (addRecord r s).du = s.du := rfl
@[simp] theorem addRecord_mu (s : State) (r : Record) : (addRecord r s).mu = s.mu := rfl
@[simp] theorem addRecord_cu (s : State) (r : Record) : (addRecord r s).cu = s.cu := rfl
@[simp] theorem addRecord_am (s : State) (r : Record) : (addRecord r s).am = s.am := rfl
@[simp] theorem addRecord_sq (s : State) (r : Record) : (addRecord r s).sq = s.sq := rfl
@[simp] theorem addRecord_bp (s : State) (r : Record) : (addRecord r s).bp = s.bp := rfl
@[simp] theorem addRecord_pins (s : State) (r : Record) : (addRecord r s).pins = s.pins := rfl
@[simp] theorem addRecord_msCounter (s : State) (r : Record) : (addRecord r s).msCounter = s.msCounter := rfl
@[simp] theorem addRecord_mem (s : State) (r : Record) : (addRecord r s).mem = s.mem := rfl
@[simp] theorem addRecord_replies (s : State) (r : Record) : (addRecord r s).replies = s.replies := rfl
@[simp] theorem addRecord_pending (s : State) (r : Record) : (addRecord r s).pending = s.pending := rfl

@[simp] theorem streamRecord_td (s : State) (r : Record) : (streamRecord r s).td = s.td := by
  unfold streamRecord; repeat' split
  all_goals simp
@[simp] theorem streamRecord_lt (s : State) (r : Record) : (streamRecord r s).lt = s.lt := by
  unfold streamRecord; repeat' split
  all_goals simp
@[simp] theorem streamRecord_du (s : State) (r : Record) : (streamRecord r s).du = s.du := by
  unfold streamRecord; repeat' split
  all_goals simp
@[simp] theorem streamRecord_mu (s : State) (r : Record) : (streamRecord r s).mu = s.mu := by
  unfold streamRecord; repeat' split
  all_goals simp
@[simp] theorem streamRecord_cu (s : State) (r : Record) : (streamRecord r s).cu = s.cu := by
  unfold streamRecord; repeat' split
  all_goals simp
@[simp] theorem streamRecord_am (s : State) (r : Record) : (streamRecord r s).am = s.am := by
  unfold streamRecord; repeat' split
  all_goals simp
@[simp] theorem streamRecord_sq (s : State) (r : Record) : (streamRecord r s).sq = s.sq := by
  unfold streamRecord; repeat' split
  all_goals simp
@[simp] theorem streamRecord_bp (s : State) (r : Record) : (streamRecord r s).bp = s.bp := by
  unfold streamRecord; repeat' split
  all_goals simp
@[simp] theorem streamRecord_pins (s : State) (r : Record) : (streamRecord r s).pins = s.pins := by
  unfold streamRecord; repeat' split
  all_goals simp
@[simp] theorem streamRecord_msCounter (s : State) (r : Record) : (streamRecord r s).msCounter = s.msCounter := by
  unfold streamRecord; repeat' split
  all_goals simp
@[simp] theorem streamRecord_mem (s : State) (r : Record) : (streamRecord r s).mem = s.mem := by
  unfold streamRecord; repeat' split
  all_goals simp
@[simp] theorem streamRecord_replies (s : State) (r : Record) : (streamRecord r s).replies = s.replies := by
  unfold streamRecord; repeat' split
  all_goals simp
@[simp] theorem streamRecord_pending (s : State) (r : Record) : (streamRecord r s).pending = s.pending := by
  unfold streamRecord; repeat' split
  all_goals simp

@[simp] theorem openRecord_td (s : State) (k : RecordKind) (c : Nat) (v : Int) : (openRecord k c v s).td = s.td := rfl
@[simp] theorem openRecord_lt (s : State) (k : RecordKind) (c : Nat) (v : Int) : (openRecord k c v s).lt = s.lt := rfl
@[simp] theorem openRecord_du (s : State) (k : RecordKind) (c : Nat) (v : Int) : (openRecord k c v s).du = s.du := rfl
@[simp] theorem openRecord_mu (s : State) (k : RecordKind) (c : Nat) (v : Int) : (openRecord k c v s).mu = s.mu := rfl
@[simp] theorem openRecord_cu (s : State) (k : RecordKind) (c : Nat) (v : Int) : (openRecord k c v s).cu = s.cu := rfl
@[simp] theorem openRecord_am (s : State) (k : RecordKind) (c : Nat) (v : Int) : (openRecord k c v s).am = s.am := rfl
@[simp] theorem openRecord_sq (s : State) (k : RecordKind) (c : Nat) (v : Int) : (openRecord k c v s).sq = s.sq := rfl
@[simp] theorem openRecord_bp (s : State) (k : RecordKind) (c : Nat) (v : Int) : (openRecord k c v s).bp = s.bp := rfl
@[simp] theorem openRecord_pins (s : State) (k : RecordKind) (c : Nat) (v : Int) :
    (openRecord k c v s).pins = s.pins := rfl
@[simp] theorem openRecord_msCounter (s : State) (k : RecordKind) (c : Nat) (v : Int) :
    (openRecord k c v s).msCounter = s.msCounter := rfl
@[simp] theorem openRecord_mem (s : State) (k : RecordKind) (c : Nat) (v : Int) :
    (openRecord k c v s).mem = s.mem := rfl
@[simp] theorem openRecord_replies (s : State) (k : RecordKind) (c : Nat) (v : Int) :
    (openRecord k c v s).replies = s.replies := rfl
@[simp] theorem openRecord_pending (s : State) (k : RecordKind) (c : Nat) (v : Int) :
    (openRecord k c v s).pending = s.pending := rfl

@[simp] theorem closeRecord_td (s : State) (k : RecordKind) (c : Nat) (v : Int) :
    (closeRecord k c v s).td = s.td := by
  unfold closeRecord; dsimp only; repeat' split
  all_goals simp
@[simp] theorem closeRecord_lt (s : State) (k : RecordKind) (c : Nat) (v : Int) :
    (closeRecord k c v s).lt = s.lt := by
  unfold closeRecord; dsimp only; repeat' split
  all_goals simp
@[simp] theorem closeRecord_du (s : State) (k : RecordKind) (c : Nat) (v : Int) :
    (closeRecord k c v s).du = s.du := by
  unfold closeRecord; dsimp only; repeat' split
  all_goals simp
@[simp] theorem closeRecord_mu (s : State) (k : RecordKind) (c : Nat) (v : Int) :
    (closeRecord k c v s).mu = s.mu := by
  unfold closeRecord; dsimp only; repeat' split
  all_goals simp
@[simp] theorem closeRecord_cu (s : State) (k : RecordKind) (c : Nat) (v : Int) :
    (closeRecord k c v s).cu = s.cu := by
  unfold closeRecord; dsimp only; repeat' split
  all_goals simp
@[simp] theorem closeRecord_am (s : State) (k : RecordKind) (c : Nat) (v : Int) :
    (closeRecord k c v s).am = s.am := by
  unfold closeRecord; dsimp only; repeat' split
  all_goals simp
@[simp] theorem closeRecord_sq (s : State) (k : RecordKind) (c : Nat) (v : Int) :
    (closeRecord k c v s).sq = s.sq := by
  unfold closeRecord; dsimp only; repeat' split
  all_goals simp
@[simp] theorem closeRecord_bp (s : State) (k : RecordKind) (c : Nat) (v : Int) :
    (closeRecord k c v s).bp = s.bp := by
  unfold closeRecord; dsimp only; repeat' split
  all_goals simp
@[simp] theorem closeRecord_pins (s : State) (k : RecordKind) (c : Nat) (v : Int) :
    (closeRecord k c v s).pins = s.pins := by
  unfold closeRecord; dsimp only; repeat' split
  all_goals simp
@[simp] theorem closeRecord_msCounter (s : State) (k : RecordKind) (c : Nat) (v : Int) :
    (closeRecord k c v s).msCounter = s.msCounter := by
  unfold closeRecord; dsimp only; repeat' split
  all_goals simp
@[simp] theorem closeRecord_mem (s : State) (k : RecordKind) (c : Nat) (v : Int) :
    (closeRecord k c v s).mem = s.mem := by
  unfold closeRecord; dsimp only; repeat' split
  all_goals simp
@[simp] theorem closeRecord_replies (s : State) (k : RecordKind) (c : Nat) (v : Int) :
    (closeRecord k c v s).replies = s.replies := by
  unfold closeRecord; dsimp only; repeat' split
  all_goals simp
@[simp] theorem closeRecord_pending (s : State) (k : RecordKind) (c : Nat) (v : Int) :
    (closeRecord k c v s).pending = s.pending := by
  unfold closeRecord; dsimp only; repeat' split
  all_goals simp

@[simp] theorem enterState_td (s : State) (st : SeqState) (d : Destination) : (enterState st d s).td = s.td := rfl
@[simp] theorem enterState_lt (s : State) (st : SeqState) (d : Destination) : (enterState st d s).lt = s.lt := rfl
@[simp] theorem enterState_du (s : State) (st : SeqState) (d : Destination) : (enterState st d s).du = s.du := rfl
@[simp] theorem enterState_mu (s : State) (st : SeqState) (d : Destination) : (enterState st d s).mu = s.mu := rfl
@[simp] theorem enterState_am (s : State) (st : SeqState) (d : Destination) : (enterState st d s).am = s.am := rfl
@[simp] theorem enterState_fj (s : State) (st : SeqState) (d : Destination) : (enterState st d s).fj = s.fj := rfl
@[simp] theorem enterState_cap (s : State) (st : SeqState) (d : Destination) : (enterState st d s).cap = s.cap := rfl
@[simp] theorem enterState_bp (s : State) (st : SeqState) (d : Destination) : (enterState st d s).bp = s.bp := rfl
@[simp] theorem enterState_pins (s : State) (st : SeqState) (d : Destination) :
    (enterState st d s).pins = s.pins := rfl
@[simp] theorem enterState_msCounter (s : State) (st : SeqState) (d : Destination) :
    (enterState st d s).msCounter = s.msCounter := rfl
@[simp] theorem enterState_mem (s : State) (st : SeqState) (d : Destination) : (enterState st d s).mem = s.mem := rfl
@[simp] theorem enterState_replies (s : State) (st : SeqState) (d : Destination) :
    (enterState st d s).replies = s.replies := rfl
@[simp] theorem enterState_pending (s : State) (st : SeqState) (d : Destination) :
    (enterState st d s).pending = s.pending := rfl

@[simp] theorem enterDemand_td (s : State) (k : TripKind) : (enterDemand s k).td = s.td := by
  unfold enterDemand; repeat' split
  all_goals simp
@[simp] theorem enterDemand_lt (s : State) (k : TripKind) : (enterDemand s k).lt = s.lt := by
  unfold enterDemand; repeat' split
  all_goals simp
@[simp] theorem enterDemand_du (s : State) (k : TripKind) : (enterDemand s k).du = s.du := by
  unfold enterDemand; repeat' split
  all_goals simp
@[simp] theorem enterDemand_mu (s : State) (k : TripKind) : (enterDemand s k).mu = s.mu := by
  unfold enterDemand; repeat' split
  all_goals simp
@[simp] theorem enterDemand_am (s : State) (k : TripKind) : (enterDemand s k).am = s.am := by
  unfold enterDemand; repeat' split
  all_goals simp
@[simp] theorem enterDemand_fj (s : State) (k : TripKind) : (enterDemand s k).fj = s.fj := by
  unfold enterDemand; repeat' split
  all_goals simp
@[simp] theorem enterDemand_cap (s : State) (k : TripKind) : (enterDemand s k).cap = s.cap := by
  unfold enterDemand; repeat' split
  all_goals simp
@[simp] theorem enterDemand_bp (s : State) (k : TripKind) : (enterDemand s k).bp = s.bp := by
  unfold enterDemand; repeat' split
  all_goals simp
@[simp] theorem enterDemand_pins (s : State) (k : TripKind) : (enterDemand s k).pins = s.pins := by
  unfold enterDemand; repeat' split
  all_goals simp
@[simp] theorem enterDemand_msCounter (s : State) (k : TripKind) : (enterDemand s k).msCounter = s.msCounter := by
  unfold enterDemand; repeat' split
  all_goals simp
@[simp] theorem enterDemand_mem (s : State) (k : TripKind) : (enterDemand s k).mem = s.mem := by
  unfold enterDemand; repeat' split
  all_goals simp
@[simp] theorem enterDemand_replies (s : State) (k : TripKind) : (enterDemand s k).replies = s.replies := by
  unfold enterDemand; repeat' split
  all_goals simp
@[simp] theorem enterDemand_pending (s : State) (k : TripKind) : (enterDemand s k).pending = s.pending := by
  unfold enterDemand; repeat' split
  all_goals simp

@[simp] theorem enterDemands_td (s : State) (ks : List TripKind) : (ks.foldl enterDemand s).td = s.td :=
  foldl_keeps enterDemand _ (fun t k => enterDemand_td t k) ks s
@[simp] theorem enterDemands_lt (s : State) (ks : List TripKind) : (ks.foldl enterDemand s).lt = s.lt :=
  foldl_keeps enterDemand _ (fun t k => enterDemand_lt t k) ks s
@[simp] theorem enterDemands_du (s : State) (ks : List TripKind) : (ks.foldl enterDemand s).du = s.du :=
  foldl_keeps enterDemand _ (fun t k => enterDemand_du t k) ks s
@[simp] theorem enterDemands_mu (s : State) (ks : List TripKind) : (ks.foldl enterDemand s).mu = s.mu :=
  foldl_keeps enterDemand _ (fun t k => enterDemand_mu t k) ks s
@[simp] theorem enterDemands_am (s : State) (ks : List TripKind) : (ks.foldl enterDemand s).am = s.am :=
  foldl_keeps enterDemand _ (fun t k => enterDemand_am t k) ks s
@[simp] theorem enterDemands_fj (s : State) (ks : List TripKind) : (ks.foldl enterDemand s).fj = s.fj :=
  foldl_keeps enterDemand _ (fun t k => enterDemand_fj t k) ks s
@[simp] theorem enterDemands_cap (s : State) (ks : List TripKind) : (ks.foldl enterDemand s).cap = s.cap :=
  foldl_keeps enterDemand _ (fun t k => enterDemand_cap t k) ks s
@[simp] theorem enterDemands_bp (s : State) (ks : List TripKind) : (ks.foldl enterDemand s).bp = s.bp :=
  foldl_keeps enterDemand _ (fun t k => enterDemand_bp t k) ks s
@[simp] theorem enterDemands_pins (s : State) (ks : List TripKind) : (ks.foldl enterDemand s).pins = s.pins :=
  foldl_keeps enterDemand _ (fun t k => enterDemand_pins t k) ks s
@[simp] theorem enterDemands_msCounter (s : State) (ks : List TripKind) :
    (ks.foldl enterDemand s).msCounter = s.msCounter :=
  foldl_keeps enterDemand _ (fun t k => enterDemand_msCounter t k) ks s
@[simp] theorem enterDemands_mem (s : State) (ks : List TripKind) : (ks.foldl enterDemand s).mem = s.mem :=
  foldl_keeps enterDemand _ (fun t k => enterDemand_mem t k) ks s
@[simp] theorem enterDemands_replies (s : State) (ks : List TripKind) :
    (ks.foldl enterDemand s).replies = s.replies :=
  foldl_keeps enterDemand _ (fun t k => enterDemand_replies t k) ks s
@[simp] theorem enterDemands_pending (s : State) (ks : List TripKind) :
    (ks.foldl enterDemand s).pending = s.pending :=
  foldl_keeps enterDemand _ (fun t k => enterDemand_pending t k) ks s

@[simp] theorem tripDemands_td (s : State) (ks : List TripKind) : (tripDemands ks s).td = s.td := by
  unfold tripDemands; dsimp only; repeat' split
  all_goals simp
@[simp] theorem tripDemands_lt (s : State) (ks : List TripKind) : (tripDemands ks s).lt = s.lt := by
  unfold tripDemands; dsimp only; repeat' split
  all_goals simp
@[simp] theorem tripDemands_du (s : State) (ks : List TripKind) : (tripDemands ks s).du = s.du := by
  unfold tripDemands; dsimp only; repeat' split
  all_goals simp
@[simp] theorem tripDemands_mu (s : State) (ks : List TripKind) : (tripDemands ks s).mu = s.mu := by
  unfold tripDemands; dsimp only; repeat' split
  all_goals simp
@[simp] theorem tripDemands_am (s : State) (ks : List TripKind) : (tripDemands ks s).am = s.am := by
  unfold tripDemands; dsimp only; repeat' split
  all_goals simp
@[simp] theorem tripDemands_bp (s : State) (ks : List TripKind) : (tripDemands ks s).bp = s.bp := by
  unfold tripDemands; dsimp only; repeat' split
  all_goals simp
@[simp] theorem tripDemands_pins (s : State) (ks : List TripKind) : (tripDemands ks s).pins = s.pins := by
  unfold tripDemands; dsimp only; repeat' split
  all_goals simp
@[simp] theorem tripDemands_msCounter (s : State) (ks : List TripKind) :
    (tripDemands ks s).msCounter = s.msCounter := by
  unfold tripDemands; dsimp only; repeat' split
  all_goals simp
@[simp] theorem tripDemands_mem (s : State) (ks : List TripKind) : (tripDemands ks s).mem = s.mem := by
  unfold tripDemands; dsimp only; repeat' split
  all_goals simp
@[simp] theorem tripDemands_replies (s : State) (ks : List TripKind) : (tripDemands ks s).replies = s.replies := by
  unfold tripDemands; dsimp only; repeat' split
  all_goals simp
@[simp] theorem tripDemands_pending (s : State) (ks : List TripKind) : (tripDemands ks s).pending = s.pending := by
  unfold tripDemands; dsimp only; repeat' split
  all_goals simp

@[simp] theorem tripDemand_td (s : State) (k : TripKind) : (tripDemand k s).td = s.td := by
  simp [tripDemand]
@[simp] theorem tripDemand_lt (s : State) (k : TripKind) : (tripDemand k s).lt = s.lt := by
  simp [tripDemand]
@[simp] theorem tripDemand_du (s : State) (k : TripKind) : (tripDemand k s).du = s.du := by
  simp [tripDemand]
@[simp] theorem tripDemand_mu (s : State) (k : TripKind) : (tripDemand k s).mu = s.mu := by
  simp [tripDemand]
@[simp] theorem tripDemand_am (s : State) (k : TripKind) : (tripDemand k s).am = s.am := by
  simp [tripDemand]
@[simp] theorem tripDemand_bp (s : State) (k : TripKind) : (tripDemand k s).bp = s.bp := by
  simp [tripDemand]
@[simp] theorem tripDemand_pins (s : State) (k : TripKind) : (tripDemand k s).pins = s.pins := by
  simp [tripDemand]
@[simp] theorem tripDemand_msCounter (s : State) (k : TripKind) : (tripDemand k s).msCounter = s.msCounter := by
  simp [tripDemand]
@[simp] theorem tripDemand_mem (s : State) (k : TripKind) : (tripDemand k s).mem = s.mem := by
  simp [tripDemand]
@[simp] theorem tripDemand_replies (s : State) (k : TripKind) : (tripDemand k s).replies = s.replies := by
  simp [tripDemand]
@[simp] theorem tripDemand_pending (s : State) (k : TripKind) : (tripDemand k s).pending = s.pending := by
  simp [tripDemand]

@[simp] theorem readmissions_td (s : State) (a : Bool) (l : List (Fin 8)) :
    (l.foldl (fun t m => addRecord (readmittedRecord t m a) t) s).td = s.td :=
  foldl_keeps _ _ (fun t _ => addRecord_td t _) l s
@[simp] theorem readmissions_lt (s : State) (a : Bool) (l : List (Fin 8)) :
    (l.foldl (fun t m => addRecord (readmittedRecord t m a) t) s).lt = s.lt :=
  foldl_keeps _ _ (fun t _ => addRecord_lt t _) l s
@[simp] theorem readmissions_du (s : State) (a : Bool) (l : List (Fin 8)) :
    (l.foldl (fun t m => addRecord (readmittedRecord t m a) t) s).du = s.du :=
  foldl_keeps _ _ (fun t _ => addRecord_du t _) l s
@[simp] theorem readmissions_mu (s : State) (a : Bool) (l : List (Fin 8)) :
    (l.foldl (fun t m => addRecord (readmittedRecord t m a) t) s).mu = s.mu :=
  foldl_keeps _ _ (fun t _ => addRecord_mu t _) l s
@[simp] theorem readmissions_cu (s : State) (a : Bool) (l : List (Fin 8)) :
    (l.foldl (fun t m => addRecord (readmittedRecord t m a) t) s).cu = s.cu :=
  foldl_keeps _ _ (fun t _ => addRecord_cu t _) l s
@[simp] theorem readmissions_am (s : State) (a : Bool) (l : List (Fin 8)) :
    (l.foldl (fun t m => addRecord (readmittedRecord t m a) t) s).am = s.am :=
  foldl_keeps _ _ (fun t _ => addRecord_am t _) l s
@[simp] theorem readmissions_sq (s : State) (a : Bool) (l : List (Fin 8)) :
    (l.foldl (fun t m => addRecord (readmittedRecord t m a) t) s).sq = s.sq :=
  foldl_keeps _ _ (fun t _ => addRecord_sq t _) l s
@[simp] theorem readmissions_bp (s : State) (a : Bool) (l : List (Fin 8)) :
    (l.foldl (fun t m => addRecord (readmittedRecord t m a) t) s).bp = s.bp :=
  foldl_keeps _ _ (fun t _ => addRecord_bp t _) l s
@[simp] theorem readmissions_pins (s : State) (a : Bool) (l : List (Fin 8)) :
    (l.foldl (fun t m => addRecord (readmittedRecord t m a) t) s).pins = s.pins :=
  foldl_keeps _ _ (fun t _ => addRecord_pins t _) l s
@[simp] theorem readmissions_msCounter (s : State) (a : Bool) (l : List (Fin 8)) :
    (l.foldl (fun t m => addRecord (readmittedRecord t m a) t) s).msCounter = s.msCounter :=
  foldl_keeps _ _ (fun t _ => addRecord_msCounter t _) l s
@[simp] theorem readmissions_mem (s : State) (a : Bool) (l : List (Fin 8)) :
    (l.foldl (fun t m => addRecord (readmittedRecord t m a) t) s).mem = s.mem :=
  foldl_keeps _ _ (fun t _ => addRecord_mem t _) l s
@[simp] theorem readmissions_replies (s : State) (a : Bool) (l : List (Fin 8)) :
    (l.foldl (fun t m => addRecord (readmittedRecord t m a) t) s).replies = s.replies :=
  foldl_keeps _ _ (fun t _ => addRecord_replies t _) l s
@[simp] theorem readmissions_pending (s : State) (a : Bool) (l : List (Fin 8)) :
    (l.foldl (fun t m => addRecord (readmittedRecord t m a) t) s).pending = s.pending :=
  foldl_keeps _ _ (fun t _ => addRecord_pending t _) l s

@[simp] theorem closeFoldback_td (s : State) : (closeFoldback s).td = s.td := by
  unfold closeFoldback; split
  all_goals simp
@[simp] theorem closeFoldback_lt (s : State) : (closeFoldback s).lt = s.lt := by
  unfold closeFoldback; split
  all_goals simp
@[simp] theorem closeFoldback_du (s : State) : (closeFoldback s).du = s.du := by
  unfold closeFoldback; split
  all_goals simp
@[simp] theorem closeFoldback_mu (s : State) : (closeFoldback s).mu = s.mu := by
  unfold closeFoldback; split
  all_goals simp
@[simp] theorem closeFoldback_cu (s : State) : (closeFoldback s).cu = s.cu := by
  unfold closeFoldback; split
  all_goals simp
@[simp] theorem closeFoldback_am (s : State) : (closeFoldback s).am = s.am := by
  unfold closeFoldback; split
  all_goals simp
@[simp] theorem closeFoldback_sq (s : State) : (closeFoldback s).sq = s.sq := by
  unfold closeFoldback; split
  all_goals simp
@[simp] theorem closeFoldback_bp (s : State) : (closeFoldback s).bp = s.bp := by
  unfold closeFoldback; split
  all_goals simp
@[simp] theorem closeFoldback_pins (s : State) : (closeFoldback s).pins = s.pins := by
  unfold closeFoldback; split
  all_goals simp
@[simp] theorem closeFoldback_msCounter (s : State) : (closeFoldback s).msCounter = s.msCounter := by
  unfold closeFoldback; split
  all_goals simp
@[simp] theorem closeFoldback_mem (s : State) : (closeFoldback s).mem = s.mem := by
  unfold closeFoldback; split
  all_goals simp
@[simp] theorem closeFoldback_replies (s : State) : (closeFoldback s).replies = s.replies := by
  unfold closeFoldback; split
  all_goals simp
@[simp] theorem closeFoldback_pending (s : State) : (closeFoldback s).pending = s.pending := by
  unfold closeFoldback; split
  all_goals simp

@[simp] theorem restartMismatch_td (s : State) (a : Bool) : (restartMismatch a s).td = s.td := by
  unfold restartMismatch; rw [readmissions_td]; simp
@[simp] theorem restartMismatch_lt (s : State) (a : Bool) : (restartMismatch a s).lt = s.lt := by
  unfold restartMismatch; rw [readmissions_lt]; simp
@[simp] theorem restartMismatch_du (s : State) (a : Bool) : (restartMismatch a s).du = s.du := by
  unfold restartMismatch; rw [readmissions_du]; simp
@[simp] theorem restartMismatch_cu (s : State) (a : Bool) : (restartMismatch a s).cu = s.cu := by
  unfold restartMismatch; rw [readmissions_cu]; simp
@[simp] theorem restartMismatch_am (s : State) (a : Bool) : (restartMismatch a s).am = s.am := by
  unfold restartMismatch; rw [readmissions_am]; simp
@[simp] theorem restartMismatch_sq (s : State) (a : Bool) : (restartMismatch a s).sq = s.sq := by
  unfold restartMismatch; rw [readmissions_sq]; simp
@[simp] theorem restartMismatch_bp (s : State) (a : Bool) : (restartMismatch a s).bp = s.bp := by
  unfold restartMismatch; rw [readmissions_bp]; simp
@[simp] theorem restartMismatch_pins (s : State) (a : Bool) : (restartMismatch a s).pins = s.pins := by
  unfold restartMismatch; rw [readmissions_pins]; simp
@[simp] theorem restartMismatch_msCounter (s : State) (a : Bool) : (restartMismatch a s).msCounter = s.msCounter := by
  unfold restartMismatch; rw [readmissions_msCounter]; simp
@[simp] theorem restartMismatch_mem (s : State) (a : Bool) : (restartMismatch a s).mem = s.mem := by
  unfold restartMismatch; rw [readmissions_mem]; simp
@[simp] theorem restartMismatch_replies (s : State) (a : Bool) : (restartMismatch a s).replies = s.replies := by
  unfold restartMismatch; rw [readmissions_replies]; simp
@[simp] theorem restartMismatch_pending (s : State) (a : Bool) : (restartMismatch a s).pending = s.pending := by
  unfold restartMismatch; rw [readmissions_pending]; simp

@[simp] theorem clearCauses_td (s : State) : (clearCauses s).td = s.td := rfl
@[simp] theorem clearCauses_lt (s : State) : (clearCauses s).lt = s.lt := rfl
@[simp] theorem clearCauses_du (s : State) : (clearCauses s).du = s.du := rfl
@[simp] theorem clearCauses_mu (s : State) : (clearCauses s).mu = s.mu := rfl
@[simp] theorem clearCauses_cu (s : State) : (clearCauses s).cu = s.cu := rfl
@[simp] theorem clearCauses_fj (s : State) : (clearCauses s).fj = s.fj := rfl
@[simp] theorem clearCauses_cap (s : State) : (clearCauses s).cap = s.cap := rfl
@[simp] theorem clearCauses_bp (s : State) : (clearCauses s).bp = s.bp := rfl
@[simp] theorem clearCauses_pins (s : State) : (clearCauses s).pins = s.pins := rfl
@[simp] theorem clearCauses_msCounter (s : State) : (clearCauses s).msCounter = s.msCounter := rfl
@[simp] theorem clearCauses_mem (s : State) : (clearCauses s).mem = s.mem := rfl
@[simp] theorem clearCauses_replies (s : State) : (clearCauses s).replies = s.replies := rfl
@[simp] theorem clearCauses_pending (s : State) : (clearCauses s).pending = s.pending := rfl

@[simp] theorem prepareRestart_td (s : State) (a : Bool) : (prepareRestart a s).td = s.td := by
  simp [prepareRestart]
@[simp] theorem prepareRestart_lt (s : State) (a : Bool) : (prepareRestart a s).lt = s.lt := by
  simp [prepareRestart]
@[simp] theorem prepareRestart_du (s : State) (a : Bool) : (prepareRestart a s).du = s.du := by
  simp [prepareRestart]
@[simp] theorem prepareRestart_cu (s : State) (a : Bool) : (prepareRestart a s).cu = s.cu := by
  simp [prepareRestart]
@[simp] theorem prepareRestart_bp (s : State) (a : Bool) : (prepareRestart a s).bp = s.bp := by
  simp [prepareRestart]
@[simp] theorem prepareRestart_pins (s : State) (a : Bool) : (prepareRestart a s).pins = s.pins := by
  simp [prepareRestart]
@[simp] theorem prepareRestart_msCounter (s : State) (a : Bool) : (prepareRestart a s).msCounter = s.msCounter := by
  simp [prepareRestart]
@[simp] theorem prepareRestart_mem (s : State) (a : Bool) : (prepareRestart a s).mem = s.mem := by
  simp [prepareRestart]
@[simp] theorem prepareRestart_replies (s : State) (a : Bool) : (prepareRestart a s).replies = s.replies := by
  simp [prepareRestart]
@[simp] theorem prepareRestart_pending (s : State) (a : Bool) : (prepareRestart a s).pending = s.pending := by
  simp [prepareRestart]

@[simp] theorem performRestart_td (s : State) (a : Bool) (n : Nat) : (performRestart a n s).td = s.td := by
  simp [performRestart]
@[simp] theorem performRestart_lt (s : State) (a : Bool) (n : Nat) : (performRestart a n s).lt = s.lt := by
  simp [performRestart]
@[simp] theorem performRestart_du (s : State) (a : Bool) (n : Nat) : (performRestart a n s).du = s.du := by
  simp [performRestart]
@[simp] theorem performRestart_bp (s : State) (a : Bool) (n : Nat) : (performRestart a n s).bp = s.bp := by
  simp [performRestart]
@[simp] theorem performRestart_pins (s : State) (a : Bool) (n : Nat) : (performRestart a n s).pins = s.pins := by
  simp [performRestart]
@[simp] theorem performRestart_msCounter (s : State) (a : Bool) (n : Nat) :
    (performRestart a n s).msCounter = s.msCounter := by
  simp [performRestart]
@[simp] theorem performRestart_mem (s : State) (a : Bool) (n : Nat) : (performRestart a n s).mem = s.mem := by
  simp [performRestart]
@[simp] theorem performRestart_replies (s : State) (a : Bool) (n : Nat) :
    (performRestart a n s).replies = s.replies := by
  simp [performRestart]
@[simp] theorem performRestart_pending (s : State) (a : Bool) (n : Nat) :
    (performRestart a n s).pending = s.pending := by
  simp [performRestart]

@[simp] theorem autoRestart_td (s : State) : (autoRestart s).td = s.td := by
  unfold autoRestart; split
  all_goals simp
@[simp] theorem autoRestart_lt (s : State) : (autoRestart s).lt = s.lt := by
  unfold autoRestart; split
  all_goals simp
@[simp] theorem autoRestart_du (s : State) : (autoRestart s).du = s.du := by
  unfold autoRestart; split
  all_goals simp
@[simp] theorem autoRestart_bp (s : State) : (autoRestart s).bp = s.bp := by
  unfold autoRestart; split
  all_goals simp
@[simp] theorem autoRestart_pins (s : State) : (autoRestart s).pins = s.pins := by
  unfold autoRestart; split
  all_goals simp
@[simp] theorem autoRestart_msCounter (s : State) : (autoRestart s).msCounter = s.msCounter := by
  unfold autoRestart; split
  all_goals simp
@[simp] theorem autoRestart_mem (s : State) : (autoRestart s).mem = s.mem := by
  unfold autoRestart; split
  all_goals simp
@[simp] theorem autoRestart_replies (s : State) : (autoRestart s).replies = s.replies := by
  unfold autoRestart; split
  all_goals simp
@[simp] theorem autoRestart_pending (s : State) : (autoRestart s).pending = s.pending := by
  unfold autoRestart; split
  all_goals simp

@[simp] theorem strikeSignal_td (s : State) : (strikeSignal s).td = s.td := by
  unfold strikeSignal; split
  all_goals simp
@[simp] theorem strikeSignal_lt (s : State) : (strikeSignal s).lt = s.lt := by
  unfold strikeSignal; split
  all_goals simp
@[simp] theorem strikeSignal_du (s : State) : (strikeSignal s).du = s.du := by
  unfold strikeSignal; split
  all_goals simp
@[simp] theorem strikeSignal_mu (s : State) : (strikeSignal s).mu = s.mu := by
  unfold strikeSignal; split
  all_goals simp
@[simp] theorem strikeSignal_am (s : State) : (strikeSignal s).am = s.am := by
  unfold strikeSignal; split
  all_goals simp
@[simp] theorem strikeSignal_fj (s : State) : (strikeSignal s).fj = s.fj := by
  unfold strikeSignal; split
  all_goals simp
@[simp] theorem strikeSignal_cap (s : State) : (strikeSignal s).cap = s.cap := by
  unfold strikeSignal; split
  all_goals simp
@[simp] theorem strikeSignal_bp (s : State) : (strikeSignal s).bp = s.bp := by
  unfold strikeSignal; split
  all_goals simp
@[simp] theorem strikeSignal_pins (s : State) : (strikeSignal s).pins = s.pins := by
  unfold strikeSignal; split
  all_goals simp
@[simp] theorem strikeSignal_msCounter (s : State) : (strikeSignal s).msCounter = s.msCounter := by
  unfold strikeSignal; split
  all_goals simp
@[simp] theorem strikeSignal_mem (s : State) : (strikeSignal s).mem = s.mem := by
  unfold strikeSignal; split
  all_goals simp
@[simp] theorem strikeSignal_replies (s : State) : (strikeSignal s).replies = s.replies := by
  unfold strikeSignal; split
  all_goals simp
@[simp] theorem strikeSignal_pending (s : State) : (strikeSignal s).pending = s.pending := by
  unfold strikeSignal; split
  all_goals simp

@[simp] theorem arcClear_td (s : State) : (arcClear s).td = s.td := by
  unfold arcClear; split
  all_goals simp
@[simp] theorem arcClear_lt (s : State) : (arcClear s).lt = s.lt := by
  unfold arcClear; split
  all_goals simp
@[simp] theorem arcClear_du (s : State) : (arcClear s).du = s.du := by
  unfold arcClear; split
  all_goals simp
@[simp] theorem arcClear_mu (s : State) : (arcClear s).mu = s.mu := by
  unfold arcClear; split
  all_goals simp
@[simp] theorem arcClear_am (s : State) : (arcClear s).am = s.am := by
  unfold arcClear; split
  all_goals simp
@[simp] theorem arcClear_fj (s : State) : (arcClear s).fj = s.fj := by
  unfold arcClear; split
  all_goals simp
@[simp] theorem arcClear_cap (s : State) : (arcClear s).cap = s.cap := by
  unfold arcClear; split
  all_goals simp
@[simp] theorem arcClear_bp (s : State) : (arcClear s).bp = s.bp := by
  unfold arcClear; split
  all_goals simp
@[simp] theorem arcClear_pins (s : State) : (arcClear s).pins = s.pins := by
  unfold arcClear; split
  all_goals simp
@[simp] theorem arcClear_msCounter (s : State) : (arcClear s).msCounter = s.msCounter := by
  unfold arcClear; split
  all_goals simp
@[simp] theorem arcClear_mem (s : State) : (arcClear s).mem = s.mem := by
  unfold arcClear; split
  all_goals simp
@[simp] theorem arcClear_replies (s : State) : (arcClear s).replies = s.replies := by
  unfold arcClear; split
  all_goals simp
@[simp] theorem arcClear_pending (s : State) : (arcClear s).pending = s.pending := by
  unfold arcClear; split
  all_goals simp

@[simp] theorem strike_td (s : State) (i : Fin 3) : (strike i s).td = s.td := by
  unfold strike; dsimp only; split
  all_goals simp
@[simp] theorem strike_lt (s : State) (i : Fin 3) : (strike i s).lt = s.lt := by
  unfold strike; dsimp only; split
  all_goals simp
@[simp] theorem strike_du (s : State) (i : Fin 3) : (strike i s).du = s.du := by
  unfold strike; dsimp only; split
  all_goals simp
@[simp] theorem strike_mu (s : State) (i : Fin 3) : (strike i s).mu = s.mu := by
  unfold strike; dsimp only; split
  all_goals simp
@[simp] theorem strike_bp (s : State) (i : Fin 3) : (strike i s).bp = s.bp := by
  unfold strike; dsimp only; split
  all_goals simp
@[simp] theorem strike_pins (s : State) (i : Fin 3) : (strike i s).pins = s.pins := by
  unfold strike; dsimp only; split
  all_goals simp
@[simp] theorem strike_msCounter (s : State) (i : Fin 3) : (strike i s).msCounter = s.msCounter := by
  unfold strike; dsimp only; split
  all_goals simp
@[simp] theorem strike_mem (s : State) (i : Fin 3) : (strike i s).mem = s.mem := by
  unfold strike; dsimp only; split
  all_goals simp
@[simp] theorem strike_replies (s : State) (i : Fin 3) : (strike i s).replies = s.replies := by
  unfold strike; dsimp only; split
  all_goals simp
@[simp] theorem strike_pending (s : State) (i : Fin 3) : (strike i s).pending = s.pending := by
  unfold strike; dsimp only; split
  all_goals simp

@[simp] theorem arcEvent_td (s : State) (i : Fin 3) : (arcEvent i s).td = s.td := by
  unfold arcEvent; split
  all_goals simp
@[simp] theorem arcEvent_lt (s : State) (i : Fin 3) : (arcEvent i s).lt = s.lt := by
  unfold arcEvent; split
  all_goals simp
@[simp] theorem arcEvent_du (s : State) (i : Fin 3) : (arcEvent i s).du = s.du := by
  unfold arcEvent; split
  all_goals simp
@[simp] theorem arcEvent_mu (s : State) (i : Fin 3) : (arcEvent i s).mu = s.mu := by
  unfold arcEvent; split
  all_goals simp
@[simp] theorem arcEvent_bp (s : State) (i : Fin 3) : (arcEvent i s).bp = s.bp := by
  unfold arcEvent; split
  all_goals simp
@[simp] theorem arcEvent_pins (s : State) (i : Fin 3) : (arcEvent i s).pins = s.pins := by
  unfold arcEvent; split
  all_goals simp
@[simp] theorem arcEvent_msCounter (s : State) (i : Fin 3) : (arcEvent i s).msCounter = s.msCounter := by
  unfold arcEvent; split
  all_goals simp
@[simp] theorem arcEvent_mem (s : State) (i : Fin 3) : (arcEvent i s).mem = s.mem := by
  unfold arcEvent; split
  all_goals simp
@[simp] theorem arcEvent_replies (s : State) (i : Fin 3) : (arcEvent i s).replies = s.replies := by
  unfold arcEvent; split
  all_goals simp
@[simp] theorem arcEvent_pending (s : State) (i : Fin 3) : (arcEvent i s).pending = s.pending := by
  unfold arcEvent; split
  all_goals simp

@[simp] theorem setTable_td (s : State) (t : EffectiveTable) : (setTable t s).td = s.td := rfl
@[simp] theorem setTable_du (s : State) (t : EffectiveTable) : (setTable t s).du = s.du := rfl
@[simp] theorem setTable_mu (s : State) (t : EffectiveTable) : (setTable t s).mu = s.mu := rfl
@[simp] theorem setTable_cu (s : State) (t : EffectiveTable) : (setTable t s).cu = s.cu := rfl
@[simp] theorem setTable_sq (s : State) (t : EffectiveTable) : (setTable t s).sq = s.sq := rfl
@[simp] theorem setTable_fj (s : State) (t : EffectiveTable) : (setTable t s).fj = s.fj := rfl
@[simp] theorem setTable_cap (s : State) (t : EffectiveTable) : (setTable t s).cap = s.cap := rfl
@[simp] theorem setTable_bp (s : State) (t : EffectiveTable) : (setTable t s).bp = s.bp := rfl
@[simp] theorem setTable_pins (s : State) (t : EffectiveTable) : (setTable t s).pins = s.pins := rfl
@[simp] theorem setTable_msCounter (s : State) (t : EffectiveTable) : (setTable t s).msCounter = s.msCounter := rfl
@[simp] theorem setTable_mem (s : State) (t : EffectiveTable) : (setTable t s).mem = s.mem := rfl
@[simp] theorem setTable_replies (s : State) (t : EffectiveTable) : (setTable t s).replies = s.replies := rfl
@[simp] theorem setTable_pending (s : State) (t : EffectiveTable) : (setTable t s).pending = s.pending := rfl

@[simp] theorem derateClose_td (s : State) (k : Fin 11) : (derateClose s k).td = s.td := by
  simp [derateClose]
@[simp] theorem derateClose_lt (s : State) (k : Fin 11) : (derateClose s k).lt = s.lt := by
  simp [derateClose]
@[simp] theorem derateClose_du (s : State) (k : Fin 11) : (derateClose s k).du = s.du := by
  simp [derateClose]
@[simp] theorem derateClose_mu (s : State) (k : Fin 11) : (derateClose s k).mu = s.mu := by
  simp [derateClose]
@[simp] theorem derateClose_cu (s : State) (k : Fin 11) : (derateClose s k).cu = s.cu := by
  simp [derateClose]
@[simp] theorem derateClose_am (s : State) (k : Fin 11) : (derateClose s k).am = s.am := by
  simp [derateClose]
@[simp] theorem derateClose_sq (s : State) (k : Fin 11) : (derateClose s k).sq = s.sq := by
  simp [derateClose]
@[simp] theorem derateClose_bp (s : State) (k : Fin 11) : (derateClose s k).bp = s.bp := by
  simp [derateClose]
@[simp] theorem derateClose_pins (s : State) (k : Fin 11) : (derateClose s k).pins = s.pins := by
  simp [derateClose]
@[simp] theorem derateClose_msCounter (s : State) (k : Fin 11) : (derateClose s k).msCounter = s.msCounter := by
  simp [derateClose]
@[simp] theorem derateClose_mem (s : State) (k : Fin 11) : (derateClose s k).mem = s.mem := by
  simp [derateClose]
@[simp] theorem derateClose_replies (s : State) (k : Fin 11) : (derateClose s k).replies = s.replies := by
  simp [derateClose]
@[simp] theorem derateClose_pending (s : State) (k : Fin 11) : (derateClose s k).pending = s.pending := by
  simp [derateClose]

@[simp] theorem derateCloses_td (s : State) (l : List (Fin 11)) : (l.foldl derateClose s).td = s.td :=
  foldl_keeps derateClose _ (fun t k => derateClose_td t k) l s
@[simp] theorem derateCloses_lt (s : State) (l : List (Fin 11)) : (l.foldl derateClose s).lt = s.lt :=
  foldl_keeps derateClose _ (fun t k => derateClose_lt t k) l s
@[simp] theorem derateCloses_du (s : State) (l : List (Fin 11)) : (l.foldl derateClose s).du = s.du :=
  foldl_keeps derateClose _ (fun t k => derateClose_du t k) l s
@[simp] theorem derateCloses_mu (s : State) (l : List (Fin 11)) : (l.foldl derateClose s).mu = s.mu :=
  foldl_keeps derateClose _ (fun t k => derateClose_mu t k) l s
@[simp] theorem derateCloses_cu (s : State) (l : List (Fin 11)) : (l.foldl derateClose s).cu = s.cu :=
  foldl_keeps derateClose _ (fun t k => derateClose_cu t k) l s
@[simp] theorem derateCloses_am (s : State) (l : List (Fin 11)) : (l.foldl derateClose s).am = s.am :=
  foldl_keeps derateClose _ (fun t k => derateClose_am t k) l s
@[simp] theorem derateCloses_sq (s : State) (l : List (Fin 11)) : (l.foldl derateClose s).sq = s.sq :=
  foldl_keeps derateClose _ (fun t k => derateClose_sq t k) l s
@[simp] theorem derateCloses_bp (s : State) (l : List (Fin 11)) : (l.foldl derateClose s).bp = s.bp :=
  foldl_keeps derateClose _ (fun t k => derateClose_bp t k) l s
@[simp] theorem derateCloses_pins (s : State) (l : List (Fin 11)) : (l.foldl derateClose s).pins = s.pins :=
  foldl_keeps derateClose _ (fun t k => derateClose_pins t k) l s
@[simp] theorem derateCloses_msCounter (s : State) (l : List (Fin 11)) :
    (l.foldl derateClose s).msCounter = s.msCounter :=
  foldl_keeps derateClose _ (fun t k => derateClose_msCounter t k) l s
@[simp] theorem derateCloses_mem (s : State) (l : List (Fin 11)) : (l.foldl derateClose s).mem = s.mem :=
  foldl_keeps derateClose _ (fun t k => derateClose_mem t k) l s
@[simp] theorem derateCloses_replies (s : State) (l : List (Fin 11)) :
    (l.foldl derateClose s).replies = s.replies := foldl_keeps derateClose _ (fun t k => derateClose_replies t k) l s
@[simp] theorem derateCloses_pending (s : State) (l : List (Fin 11)) :
    (l.foldl derateClose s).pending = s.pending := foldl_keeps derateClose _ (fun t k => derateClose_pending t k) l s

@[simp] theorem takeEffectNow_du (s : State) (t : EffectiveTable) : (takeEffectNow t s).du = s.du := by
  simp [takeEffectNow]
@[simp] theorem takeEffectNow_mu (s : State) (t : EffectiveTable) : (takeEffectNow t s).mu = s.mu := by
  simp [takeEffectNow]
@[simp] theorem takeEffectNow_cu (s : State) (t : EffectiveTable) : (takeEffectNow t s).cu = s.cu := by
  simp [takeEffectNow]
@[simp] theorem takeEffectNow_sq (s : State) (t : EffectiveTable) : (takeEffectNow t s).sq = s.sq := by
  simp [takeEffectNow]
@[simp] theorem takeEffectNow_bp (s : State) (t : EffectiveTable) : (takeEffectNow t s).bp = s.bp := by
  simp [takeEffectNow]
@[simp] theorem takeEffectNow_pins (s : State) (t : EffectiveTable) : (takeEffectNow t s).pins = s.pins := by
  simp [takeEffectNow]
@[simp] theorem takeEffectNow_msCounter (s : State) (t : EffectiveTable) :
    (takeEffectNow t s).msCounter = s.msCounter := by
  simp [takeEffectNow]
@[simp] theorem takeEffectNow_mem (s : State) (t : EffectiveTable) : (takeEffectNow t s).mem = s.mem := by
  simp [takeEffectNow]
@[simp] theorem takeEffectNow_replies (s : State) (t : EffectiveTable) : (takeEffectNow t s).replies = s.replies := by
  simp [takeEffectNow]
@[simp] theorem takeEffectNow_pending (s : State) (t : EffectiveTable) : (takeEffectNow t s).pending = s.pending := by
  simp [takeEffectNow]

@[simp] theorem takePendingNow_du (s : State) : (takePendingNow s).du = s.du := by
  simp [takePendingNow]
@[simp] theorem takePendingNow_mu (s : State) : (takePendingNow s).mu = s.mu := by
  simp [takePendingNow]
@[simp] theorem takePendingNow_cu (s : State) : (takePendingNow s).cu = s.cu := by
  simp [takePendingNow]
@[simp] theorem takePendingNow_sq (s : State) : (takePendingNow s).sq = s.sq := by
  simp [takePendingNow]
@[simp] theorem takePendingNow_bp (s : State) : (takePendingNow s).bp = s.bp := by
  simp [takePendingNow]
@[simp] theorem takePendingNow_pins (s : State) : (takePendingNow s).pins = s.pins := by
  simp [takePendingNow]
@[simp] theorem takePendingNow_msCounter (s : State) : (takePendingNow s).msCounter = s.msCounter := by
  simp [takePendingNow]
@[simp] theorem takePendingNow_mem (s : State) : (takePendingNow s).mem = s.mem := by
  simp [takePendingNow]
@[simp] theorem takePendingNow_replies (s : State) : (takePendingNow s).replies = s.replies := by
  simp [takePendingNow]
@[simp] theorem takePendingNow_pending (s : State) : (takePendingNow s).pending = s.pending := by
  simp [takePendingNow]

@[simp] theorem handOver_du (s : State) (u : Update) : (handOver u s).du = s.du := by
  unfold handOver; split
  all_goals simp
@[simp] theorem handOver_mu (s : State) (u : Update) : (handOver u s).mu = s.mu := by
  unfold handOver; split
  all_goals simp
@[simp] theorem handOver_cu (s : State) (u : Update) : (handOver u s).cu = s.cu := by
  unfold handOver; split
  all_goals simp
@[simp] theorem handOver_sq (s : State) (u : Update) : (handOver u s).sq = s.sq := by
  unfold handOver; split
  all_goals simp
@[simp] theorem handOver_bp (s : State) (u : Update) : (handOver u s).bp = s.bp := by
  unfold handOver; split
  all_goals simp
@[simp] theorem handOver_pins (s : State) (u : Update) : (handOver u s).pins = s.pins := by
  unfold handOver; split
  all_goals simp
@[simp] theorem handOver_msCounter (s : State) (u : Update) : (handOver u s).msCounter = s.msCounter := by
  unfold handOver; split
  all_goals simp
@[simp] theorem handOver_mem (s : State) (u : Update) : (handOver u s).mem = s.mem := by
  unfold handOver; split
  all_goals simp
@[simp] theorem handOver_replies (s : State) (u : Update) : (handOver u s).replies = s.replies := by
  unfold handOver; split
  all_goals simp
@[simp] theorem handOver_pending (s : State) (u : Update) : (handOver u s).pending = s.pending := by
  unfold handOver; split
  all_goals simp

@[simp] theorem stageWordA_td (s : State) (m : Master) (e : TwoWordEntry) (w : Word) :
    (stageWordA m e w s).td = s.td := rfl
@[simp] theorem stageWordA_lt (s : State) (m : Master) (e : TwoWordEntry) (w : Word) :
    (stageWordA m e w s).lt = s.lt := rfl
@[simp] theorem stageWordA_du (s : State) (m : Master) (e : TwoWordEntry) (w : Word) :
    (stageWordA m e w s).du = s.du := rfl
@[simp] theorem stageWordA_mu (s : State) (m : Master) (e : TwoWordEntry) (w : Word) :
    (stageWordA m e w s).mu = s.mu := rfl
@[simp] theorem stageWordA_cu (s : State) (m : Master) (e : TwoWordEntry) (w : Word) :
    (stageWordA m e w s).cu = s.cu := rfl
@[simp] theorem stageWordA_am (s : State) (m : Master) (e : TwoWordEntry) (w : Word) :
    (stageWordA m e w s).am = s.am := rfl
@[simp] theorem stageWordA_sq (s : State) (m : Master) (e : TwoWordEntry) (w : Word) :
    (stageWordA m e w s).sq = s.sq := rfl
@[simp] theorem stageWordA_fj (s : State) (m : Master) (e : TwoWordEntry) (w : Word) :
    (stageWordA m e w s).fj = s.fj := rfl
@[simp] theorem stageWordA_cap (s : State) (m : Master) (e : TwoWordEntry) (w : Word) :
    (stageWordA m e w s).cap = s.cap := rfl
@[simp] theorem stageWordA_pins (s : State) (m : Master) (e : TwoWordEntry) (w : Word) :
    (stageWordA m e w s).pins = s.pins := rfl
@[simp] theorem stageWordA_msCounter (s : State) (m : Master) (e : TwoWordEntry) (w : Word) :
    (stageWordA m e w s).msCounter = s.msCounter := rfl
@[simp] theorem stageWordA_mem (s : State) (m : Master) (e : TwoWordEntry) (w : Word) :
    (stageWordA m e w s).mem = s.mem := rfl
@[simp] theorem stageWordA_replies (s : State) (m : Master) (e : TwoWordEntry) (w : Word) :
    (stageWordA m e w s).replies = s.replies := rfl
@[simp] theorem stageWordA_pending (s : State) (m : Master) (e : TwoWordEntry) (w : Word) :
    (stageWordA m e w s).pending = s.pending := rfl

@[simp] theorem formWordB_du (s : State) (m : Master) (e : TwoWordEntry) (w : Word) :
    (formWordB m e w s).du = s.du := by
  unfold formWordB; repeat' split
  all_goals simp
@[simp] theorem formWordB_mu (s : State) (m : Master) (e : TwoWordEntry) (w : Word) :
    (formWordB m e w s).mu = s.mu := by
  unfold formWordB; repeat' split
  all_goals simp
@[simp] theorem formWordB_cu (s : State) (m : Master) (e : TwoWordEntry) (w : Word) :
    (formWordB m e w s).cu = s.cu := by
  unfold formWordB; repeat' split
  all_goals simp
@[simp] theorem formWordB_sq (s : State) (m : Master) (e : TwoWordEntry) (w : Word) :
    (formWordB m e w s).sq = s.sq := by
  unfold formWordB; repeat' split
  all_goals simp
@[simp] theorem formWordB_pins (s : State) (m : Master) (e : TwoWordEntry) (w : Word) :
    (formWordB m e w s).pins = s.pins := by
  unfold formWordB; repeat' split
  all_goals simp
@[simp] theorem formWordB_msCounter (s : State) (m : Master) (e : TwoWordEntry) (w : Word) :
    (formWordB m e w s).msCounter = s.msCounter := by
  unfold formWordB; repeat' split
  all_goals simp
@[simp] theorem formWordB_mem (s : State) (m : Master) (e : TwoWordEntry) (w : Word) :
    (formWordB m e w s).mem = s.mem := by
  unfold formWordB; repeat' split
  all_goals simp
@[simp] theorem formWordB_replies (s : State) (m : Master) (e : TwoWordEntry) (w : Word) :
    (formWordB m e w s).replies = s.replies := by
  unfold formWordB; repeat' split
  all_goals simp
@[simp] theorem formWordB_pending (s : State) (m : Master) (e : TwoWordEntry) (w : Word) :
    (formWordB m e w s).pending = s.pending := by
  unfold formWordB; repeat' split
  all_goals simp

@[simp] theorem takePendingAtStart_du (s : State) : (takePendingAtStart s).du = s.du := by
  simp [takePendingAtStart]
@[simp] theorem takePendingAtStart_mu (s : State) : (takePendingAtStart s).mu = s.mu := by
  simp [takePendingAtStart]
@[simp] theorem takePendingAtStart_cu (s : State) : (takePendingAtStart s).cu = s.cu := by
  simp [takePendingAtStart]
@[simp] theorem takePendingAtStart_sq (s : State) : (takePendingAtStart s).sq = s.sq := by
  simp [takePendingAtStart]
@[simp] theorem takePendingAtStart_fj (s : State) : (takePendingAtStart s).fj = s.fj := by
  simp [takePendingAtStart]
@[simp] theorem takePendingAtStart_cap (s : State) : (takePendingAtStart s).cap = s.cap := by
  simp [takePendingAtStart]
@[simp] theorem takePendingAtStart_bp (s : State) : (takePendingAtStart s).bp = s.bp := by
  simp [takePendingAtStart]
@[simp] theorem takePendingAtStart_pins (s : State) : (takePendingAtStart s).pins = s.pins := by
  simp [takePendingAtStart]
@[simp] theorem takePendingAtStart_msCounter (s : State) : (takePendingAtStart s).msCounter = s.msCounter := by
  simp [takePendingAtStart]
@[simp] theorem takePendingAtStart_mem (s : State) : (takePendingAtStart s).mem = s.mem := by
  simp [takePendingAtStart]
@[simp] theorem takePendingAtStart_replies (s : State) : (takePendingAtStart s).replies = s.replies := by
  simp [takePendingAtStart]
@[simp] theorem takePendingAtStart_pending (s : State) : (takePendingAtStart s).pending = s.pending := by
  simp [takePendingAtStart]

@[simp] theorem startEvaluation_du (s : State) (n : Snapshot) : (startEvaluation n s).du = s.du := by
  simp [startEvaluation]
@[simp] theorem startEvaluation_mu (s : State) (n : Snapshot) : (startEvaluation n s).mu = s.mu := by
  simp [startEvaluation]
@[simp] theorem startEvaluation_sq (s : State) (n : Snapshot) : (startEvaluation n s).sq = s.sq := by
  simp [startEvaluation]
@[simp] theorem startEvaluation_fj (s : State) (n : Snapshot) : (startEvaluation n s).fj = s.fj := by
  simp [startEvaluation]
@[simp] theorem startEvaluation_cap (s : State) (n : Snapshot) : (startEvaluation n s).cap = s.cap := by
  simp [startEvaluation]
@[simp] theorem startEvaluation_bp (s : State) (n : Snapshot) : (startEvaluation n s).bp = s.bp := by
  simp [startEvaluation]
@[simp] theorem startEvaluation_pins (s : State) (n : Snapshot) : (startEvaluation n s).pins = s.pins := by
  simp [startEvaluation]
@[simp] theorem startEvaluation_msCounter (s : State) (n : Snapshot) :
    (startEvaluation n s).msCounter = s.msCounter := by
  simp [startEvaluation]
@[simp] theorem startEvaluation_mem (s : State) (n : Snapshot) : (startEvaluation n s).mem = s.mem := by
  simp [startEvaluation]
@[simp] theorem startEvaluation_replies (s : State) (n : Snapshot) : (startEvaluation n s).replies = s.replies := by
  simp [startEvaluation]
@[simp] theorem startEvaluation_pending (s : State) (n : Snapshot) : (startEvaluation n s).pending = s.pending := by
  simp [startEvaluation]

@[simp] theorem adoptResults_lt (s : State) (ev : Evaluation) : (adoptResults ev s).lt = s.lt := by
  simp [adoptResults]
@[simp] theorem adoptResults_am (s : State) (ev : Evaluation) : (adoptResults ev s).am = s.am := by
  simp [adoptResults]
@[simp] theorem adoptResults_sq (s : State) (ev : Evaluation) : (adoptResults ev s).sq = s.sq := by
  simp [adoptResults]
@[simp] theorem adoptResults_fj (s : State) (ev : Evaluation) : (adoptResults ev s).fj = s.fj := by
  simp [adoptResults]
@[simp] theorem adoptResults_cap (s : State) (ev : Evaluation) : (adoptResults ev s).cap = s.cap := by
  simp [adoptResults]
@[simp] theorem adoptResults_bp (s : State) (ev : Evaluation) : (adoptResults ev s).bp = s.bp := by
  simp [adoptResults]
@[simp] theorem adoptResults_pins (s : State) (ev : Evaluation) : (adoptResults ev s).pins = s.pins := by
  simp [adoptResults]
@[simp] theorem adoptResults_msCounter (s : State) (ev : Evaluation) :
    (adoptResults ev s).msCounter = s.msCounter := by
  simp [adoptResults]
@[simp] theorem adoptResults_mem (s : State) (ev : Evaluation) : (adoptResults ev s).mem = s.mem := by
  simp [adoptResults]
@[simp] theorem adoptResults_replies (s : State) (ev : Evaluation) : (adoptResults ev s).replies = s.replies := by
  simp [adoptResults]
@[simp] theorem adoptResults_pending (s : State) (ev : Evaluation) : (adoptResults ev s).pending = s.pending := by
  simp [adoptResults]

@[simp] theorem journalChannel_td (s : State) (x : ChannelEvent) : (journalChannel s x).td = s.td := rfl
@[simp] theorem journalChannel_lt (s : State) (x : ChannelEvent) : (journalChannel s x).lt = s.lt := rfl
@[simp] theorem journalChannel_du (s : State) (x : ChannelEvent) : (journalChannel s x).du = s.du := rfl
@[simp] theorem journalChannel_mu (s : State) (x : ChannelEvent) : (journalChannel s x).mu = s.mu := rfl
@[simp] theorem journalChannel_cu (s : State) (x : ChannelEvent) : (journalChannel s x).cu = s.cu := rfl
@[simp] theorem journalChannel_am (s : State) (x : ChannelEvent) : (journalChannel s x).am = s.am := rfl
@[simp] theorem journalChannel_sq (s : State) (x : ChannelEvent) : (journalChannel s x).sq = s.sq := rfl
@[simp] theorem journalChannel_bp (s : State) (x : ChannelEvent) : (journalChannel s x).bp = s.bp := rfl
@[simp] theorem journalChannel_pins (s : State) (x : ChannelEvent) : (journalChannel s x).pins = s.pins := rfl
@[simp] theorem journalChannel_msCounter (s : State) (x : ChannelEvent) :
    (journalChannel s x).msCounter = s.msCounter := rfl
@[simp] theorem journalChannel_mem (s : State) (x : ChannelEvent) : (journalChannel s x).mem = s.mem := rfl
@[simp] theorem journalChannel_replies (s : State) (x : ChannelEvent) : (journalChannel s x).replies = s.replies :=
  rfl
@[simp] theorem journalChannel_pending (s : State) (x : ChannelEvent) : (journalChannel s x).pending = s.pending :=
  rfl

@[simp] theorem journalDerate_td (s : State) (ev : Evaluation) (b : Vector ChannelRecord 30) (k : Fin 11) :
    (journalDerate ev b s k).td = s.td := by
  unfold journalDerate; dsimp only; repeat' split
  all_goals simp
@[simp] theorem journalDerate_lt (s : State) (ev : Evaluation) (b : Vector ChannelRecord 30) (k : Fin 11) :
    (journalDerate ev b s k).lt = s.lt := by
  unfold journalDerate; dsimp only; repeat' split
  all_goals simp
@[simp] theorem journalDerate_du (s : State) (ev : Evaluation) (b : Vector ChannelRecord 30) (k : Fin 11) :
    (journalDerate ev b s k).du = s.du := by
  unfold journalDerate; dsimp only; repeat' split
  all_goals simp
@[simp] theorem journalDerate_mu (s : State) (ev : Evaluation) (b : Vector ChannelRecord 30) (k : Fin 11) :
    (journalDerate ev b s k).mu = s.mu := by
  unfold journalDerate; dsimp only; repeat' split
  all_goals simp
@[simp] theorem journalDerate_cu (s : State) (ev : Evaluation) (b : Vector ChannelRecord 30) (k : Fin 11) :
    (journalDerate ev b s k).cu = s.cu := by
  unfold journalDerate; dsimp only; repeat' split
  all_goals simp
@[simp] theorem journalDerate_am (s : State) (ev : Evaluation) (b : Vector ChannelRecord 30) (k : Fin 11) :
    (journalDerate ev b s k).am = s.am := by
  unfold journalDerate; dsimp only; repeat' split
  all_goals simp
@[simp] theorem journalDerate_sq (s : State) (ev : Evaluation) (b : Vector ChannelRecord 30) (k : Fin 11) :
    (journalDerate ev b s k).sq = s.sq := by
  unfold journalDerate; dsimp only; repeat' split
  all_goals simp
@[simp] theorem journalDerate_bp (s : State) (ev : Evaluation) (b : Vector ChannelRecord 30) (k : Fin 11) :
    (journalDerate ev b s k).bp = s.bp := by
  unfold journalDerate; dsimp only; repeat' split
  all_goals simp
@[simp] theorem journalDerate_pins (s : State) (ev : Evaluation) (b : Vector ChannelRecord 30) (k : Fin 11) :
    (journalDerate ev b s k).pins = s.pins := by
  unfold journalDerate; dsimp only; repeat' split
  all_goals simp
@[simp] theorem journalDerate_msCounter (s : State) (ev : Evaluation) (b : Vector ChannelRecord 30) (k : Fin 11) :
    (journalDerate ev b s k).msCounter = s.msCounter := by
  unfold journalDerate; dsimp only; repeat' split
  all_goals simp
@[simp] theorem journalDerate_mem (s : State) (ev : Evaluation) (b : Vector ChannelRecord 30) (k : Fin 11) :
    (journalDerate ev b s k).mem = s.mem := by
  unfold journalDerate; dsimp only; repeat' split
  all_goals simp
@[simp] theorem journalDerate_replies (s : State) (ev : Evaluation) (b : Vector ChannelRecord 30) (k : Fin 11) :
    (journalDerate ev b s k).replies = s.replies := by
  unfold journalDerate; dsimp only; repeat' split
  all_goals simp
@[simp] theorem journalDerate_pending (s : State) (ev : Evaluation) (b : Vector ChannelRecord 30) (k : Fin 11) :
    (journalDerate ev b s k).pending = s.pending := by
  unfold journalDerate; dsimp only; repeat' split
  all_goals simp

@[simp] theorem journalFoldback_td (s : State) (b : Bool) (v : Nat) : (journalFoldback b v s).td = s.td := by
  unfold journalFoldback; repeat' split
  all_goals simp
@[simp] theorem journalFoldback_lt (s : State) (b : Bool) (v : Nat) : (journalFoldback b v s).lt = s.lt := by
  unfold journalFoldback; repeat' split
  all_goals simp
@[simp] theorem journalFoldback_du (s : State) (b : Bool) (v : Nat) : (journalFoldback b v s).du = s.du := by
  unfold journalFoldback; repeat' split
  all_goals simp
@[simp] theorem journalFoldback_mu (s : State) (b : Bool) (v : Nat) : (journalFoldback b v s).mu = s.mu := by
  unfold journalFoldback; repeat' split
  all_goals simp
@[simp] theorem journalFoldback_cu (s : State) (b : Bool) (v : Nat) : (journalFoldback b v s).cu = s.cu := by
  unfold journalFoldback; repeat' split
  all_goals simp
@[simp] theorem journalFoldback_am (s : State) (b : Bool) (v : Nat) : (journalFoldback b v s).am = s.am := by
  unfold journalFoldback; repeat' split
  all_goals simp
@[simp] theorem journalFoldback_sq (s : State) (b : Bool) (v : Nat) : (journalFoldback b v s).sq = s.sq := by
  unfold journalFoldback; repeat' split
  all_goals simp
@[simp] theorem journalFoldback_bp (s : State) (b : Bool) (v : Nat) : (journalFoldback b v s).bp = s.bp := by
  unfold journalFoldback; repeat' split
  all_goals simp
@[simp] theorem journalFoldback_pins (s : State) (b : Bool) (v : Nat) : (journalFoldback b v s).pins = s.pins := by
  unfold journalFoldback; repeat' split
  all_goals simp
@[simp] theorem journalFoldback_msCounter (s : State) (b : Bool) (v : Nat) :
    (journalFoldback b v s).msCounter = s.msCounter := by
  unfold journalFoldback; repeat' split
  all_goals simp
@[simp] theorem journalFoldback_mem (s : State) (b : Bool) (v : Nat) : (journalFoldback b v s).mem = s.mem := by
  unfold journalFoldback; repeat' split
  all_goals simp
@[simp] theorem journalFoldback_replies (s : State) (b : Bool) (v : Nat) :
    (journalFoldback b v s).replies = s.replies := by
  unfold journalFoldback; repeat' split
  all_goals simp
@[simp] theorem journalFoldback_pending (s : State) (b : Bool) (v : Nat) :
    (journalFoldback b v s).pending = s.pending := by
  unfold journalFoldback; repeat' split
  all_goals simp

@[simp] theorem journalGated_td (s : State) (a : Vector Admission 8) (m : Fin 8) :
    (journalGated a s m).td = s.td := rfl
@[simp] theorem journalGated_lt (s : State) (a : Vector Admission 8) (m : Fin 8) :
    (journalGated a s m).lt = s.lt := rfl
@[simp] theorem journalGated_du (s : State) (a : Vector Admission 8) (m : Fin 8) :
    (journalGated a s m).du = s.du := rfl
@[simp] theorem journalGated_mu (s : State) (a : Vector Admission 8) (m : Fin 8) :
    (journalGated a s m).mu = s.mu := rfl
@[simp] theorem journalGated_cu (s : State) (a : Vector Admission 8) (m : Fin 8) :
    (journalGated a s m).cu = s.cu := rfl
@[simp] theorem journalGated_am (s : State) (a : Vector Admission 8) (m : Fin 8) :
    (journalGated a s m).am = s.am := rfl
@[simp] theorem journalGated_sq (s : State) (a : Vector Admission 8) (m : Fin 8) :
    (journalGated a s m).sq = s.sq := rfl
@[simp] theorem journalGated_bp (s : State) (a : Vector Admission 8) (m : Fin 8) :
    (journalGated a s m).bp = s.bp := rfl
@[simp] theorem journalGated_pins (s : State) (a : Vector Admission 8) (m : Fin 8) :
    (journalGated a s m).pins = s.pins := rfl
@[simp] theorem journalGated_msCounter (s : State) (a : Vector Admission 8) (m : Fin 8) :
    (journalGated a s m).msCounter = s.msCounter := rfl
@[simp] theorem journalGated_mem (s : State) (a : Vector Admission 8) (m : Fin 8) :
    (journalGated a s m).mem = s.mem := rfl
@[simp] theorem journalGated_replies (s : State) (a : Vector Admission 8) (m : Fin 8) :
    (journalGated a s m).replies = s.replies := rfl
@[simp] theorem journalGated_pending (s : State) (a : Vector Admission 8) (m : Fin 8) :
    (journalGated a s m).pending = s.pending := rfl

@[simp] theorem journalEvaluation_td (s : State) (ev : Evaluation) (c : Vector ChannelRecord 30) (u : MismatchUnit) :
    (journalEvaluation ev c u s).td = s.td := by
  unfold journalEvaluation; dsimp only
  rw [foldl_keeps (journalGated _) (fun t => t.td) (fun t _ => journalGated_td t _ _), journalFoldback_td,
    foldl_keeps (journalDerate ev c) (fun t => t.td) (fun t _ => journalDerate_td t _ _ _),
    foldl_keeps journalChannel (fun t => t.td) (fun t _ => journalChannel_td t _)]
@[simp] theorem journalEvaluation_lt (s : State) (ev : Evaluation) (c : Vector ChannelRecord 30) (u : MismatchUnit) :
    (journalEvaluation ev c u s).lt = s.lt := by
  unfold journalEvaluation; dsimp only
  rw [foldl_keeps (journalGated _) (fun t => t.lt) (fun t _ => journalGated_lt t _ _), journalFoldback_lt,
    foldl_keeps (journalDerate ev c) (fun t => t.lt) (fun t _ => journalDerate_lt t _ _ _),
    foldl_keeps journalChannel (fun t => t.lt) (fun t _ => journalChannel_lt t _)]
@[simp] theorem journalEvaluation_du (s : State) (ev : Evaluation) (c : Vector ChannelRecord 30) (u : MismatchUnit) :
    (journalEvaluation ev c u s).du = s.du := by
  unfold journalEvaluation; dsimp only
  rw [foldl_keeps (journalGated _) (fun t => t.du) (fun t _ => journalGated_du t _ _), journalFoldback_du,
    foldl_keeps (journalDerate ev c) (fun t => t.du) (fun t _ => journalDerate_du t _ _ _),
    foldl_keeps journalChannel (fun t => t.du) (fun t _ => journalChannel_du t _)]
@[simp] theorem journalEvaluation_mu (s : State) (ev : Evaluation) (c : Vector ChannelRecord 30) (u : MismatchUnit) :
    (journalEvaluation ev c u s).mu = s.mu := by
  unfold journalEvaluation; dsimp only
  rw [foldl_keeps (journalGated _) (fun t => t.mu) (fun t _ => journalGated_mu t _ _), journalFoldback_mu,
    foldl_keeps (journalDerate ev c) (fun t => t.mu) (fun t _ => journalDerate_mu t _ _ _),
    foldl_keeps journalChannel (fun t => t.mu) (fun t _ => journalChannel_mu t _)]
@[simp] theorem journalEvaluation_cu (s : State) (ev : Evaluation) (c : Vector ChannelRecord 30) (u : MismatchUnit) :
    (journalEvaluation ev c u s).cu = s.cu := by
  unfold journalEvaluation; dsimp only
  rw [foldl_keeps (journalGated _) (fun t => t.cu) (fun t _ => journalGated_cu t _ _), journalFoldback_cu,
    foldl_keeps (journalDerate ev c) (fun t => t.cu) (fun t _ => journalDerate_cu t _ _ _),
    foldl_keeps journalChannel (fun t => t.cu) (fun t _ => journalChannel_cu t _)]
@[simp] theorem journalEvaluation_am (s : State) (ev : Evaluation) (c : Vector ChannelRecord 30) (u : MismatchUnit) :
    (journalEvaluation ev c u s).am = s.am := by
  unfold journalEvaluation; dsimp only
  rw [foldl_keeps (journalGated _) (fun t => t.am) (fun t _ => journalGated_am t _ _), journalFoldback_am,
    foldl_keeps (journalDerate ev c) (fun t => t.am) (fun t _ => journalDerate_am t _ _ _),
    foldl_keeps journalChannel (fun t => t.am) (fun t _ => journalChannel_am t _)]
@[simp] theorem journalEvaluation_sq (s : State) (ev : Evaluation) (c : Vector ChannelRecord 30) (u : MismatchUnit) :
    (journalEvaluation ev c u s).sq = s.sq := by
  unfold journalEvaluation; dsimp only
  rw [foldl_keeps (journalGated _) (fun t => t.sq) (fun t _ => journalGated_sq t _ _), journalFoldback_sq,
    foldl_keeps (journalDerate ev c) (fun t => t.sq) (fun t _ => journalDerate_sq t _ _ _),
    foldl_keeps journalChannel (fun t => t.sq) (fun t _ => journalChannel_sq t _)]
@[simp] theorem journalEvaluation_bp (s : State) (ev : Evaluation) (c : Vector ChannelRecord 30) (u : MismatchUnit) :
    (journalEvaluation ev c u s).bp = s.bp := by
  unfold journalEvaluation; dsimp only
  rw [foldl_keeps (journalGated _) (fun t => t.bp) (fun t _ => journalGated_bp t _ _), journalFoldback_bp,
    foldl_keeps (journalDerate ev c) (fun t => t.bp) (fun t _ => journalDerate_bp t _ _ _),
    foldl_keeps journalChannel (fun t => t.bp) (fun t _ => journalChannel_bp t _)]
@[simp] theorem journalEvaluation_pins (s : State) (ev : Evaluation) (c : Vector ChannelRecord 30) (u : MismatchUnit) :
    (journalEvaluation ev c u s).pins = s.pins := by
  unfold journalEvaluation; dsimp only
  rw [foldl_keeps (journalGated _) (fun t => t.pins) (fun t _ => journalGated_pins t _ _), journalFoldback_pins,
    foldl_keeps (journalDerate ev c) (fun t => t.pins) (fun t _ => journalDerate_pins t _ _ _),
    foldl_keeps journalChannel (fun t => t.pins) (fun t _ => journalChannel_pins t _)]
@[simp] theorem journalEvaluation_msCounter (s : State) (ev : Evaluation) (c : Vector ChannelRecord 30) (u : MismatchUnit) :
    (journalEvaluation ev c u s).msCounter = s.msCounter := by
  unfold journalEvaluation; dsimp only
  rw [foldl_keeps (journalGated _) (fun t => t.msCounter) (fun t _ => journalGated_msCounter t _ _), journalFoldback_msCounter,
    foldl_keeps (journalDerate ev c) (fun t => t.msCounter) (fun t _ => journalDerate_msCounter t _ _ _),
    foldl_keeps journalChannel (fun t => t.msCounter) (fun t _ => journalChannel_msCounter t _)]
@[simp] theorem journalEvaluation_mem (s : State) (ev : Evaluation) (c : Vector ChannelRecord 30) (u : MismatchUnit) :
    (journalEvaluation ev c u s).mem = s.mem := by
  unfold journalEvaluation; dsimp only
  rw [foldl_keeps (journalGated _) (fun t => t.mem) (fun t _ => journalGated_mem t _ _), journalFoldback_mem,
    foldl_keeps (journalDerate ev c) (fun t => t.mem) (fun t _ => journalDerate_mem t _ _ _),
    foldl_keeps journalChannel (fun t => t.mem) (fun t _ => journalChannel_mem t _)]
@[simp] theorem journalEvaluation_replies (s : State) (ev : Evaluation) (c : Vector ChannelRecord 30) (u : MismatchUnit) :
    (journalEvaluation ev c u s).replies = s.replies := by
  unfold journalEvaluation; dsimp only
  rw [foldl_keeps (journalGated _) (fun t => t.replies) (fun t _ => journalGated_replies t _ _), journalFoldback_replies,
    foldl_keeps (journalDerate ev c) (fun t => t.replies) (fun t _ => journalDerate_replies t _ _ _),
    foldl_keeps journalChannel (fun t => t.replies) (fun t _ => journalChannel_replies t _)]
@[simp] theorem journalEvaluation_pending (s : State) (ev : Evaluation) (c : Vector ChannelRecord 30) (u : MismatchUnit) :
    (journalEvaluation ev c u s).pending = s.pending := by
  unfold journalEvaluation; dsimp only
  rw [foldl_keeps (journalGated _) (fun t => t.pending) (fun t _ => journalGated_pending t _ _), journalFoldback_pending,
    foldl_keeps (journalDerate ev c) (fun t => t.pending) (fun t _ => journalDerate_pending t _ _ _),
    foldl_keeps journalChannel (fun t => t.pending) (fun t _ => journalChannel_pending t _)]

@[simp] theorem appendFrame_td (s : State) (ev : Evaluation) : (appendFrame ev s).td = s.td := by
  simp [appendFrame]
@[simp] theorem appendFrame_lt (s : State) (ev : Evaluation) : (appendFrame ev s).lt = s.lt := by
  simp [appendFrame]
@[simp] theorem appendFrame_du (s : State) (ev : Evaluation) : (appendFrame ev s).du = s.du := by
  simp [appendFrame]
@[simp] theorem appendFrame_mu (s : State) (ev : Evaluation) : (appendFrame ev s).mu = s.mu := by
  simp [appendFrame]
@[simp] theorem appendFrame_cu (s : State) (ev : Evaluation) : (appendFrame ev s).cu = s.cu := by
  simp [appendFrame]
@[simp] theorem appendFrame_am (s : State) (ev : Evaluation) : (appendFrame ev s).am = s.am := by
  simp [appendFrame]
@[simp] theorem appendFrame_sq (s : State) (ev : Evaluation) : (appendFrame ev s).sq = s.sq := by
  simp [appendFrame]
@[simp] theorem appendFrame_fj (s : State) (ev : Evaluation) : (appendFrame ev s).fj = s.fj := by
  simp [appendFrame]
@[simp] theorem appendFrame_bp (s : State) (ev : Evaluation) : (appendFrame ev s).bp = s.bp := by
  simp [appendFrame]
@[simp] theorem appendFrame_pins (s : State) (ev : Evaluation) : (appendFrame ev s).pins = s.pins := by
  simp [appendFrame]
@[simp] theorem appendFrame_msCounter (s : State) (ev : Evaluation) : (appendFrame ev s).msCounter = s.msCounter := by
  simp [appendFrame]
@[simp] theorem appendFrame_mem (s : State) (ev : Evaluation) : (appendFrame ev s).mem = s.mem := by
  simp [appendFrame]
@[simp] theorem appendFrame_replies (s : State) (ev : Evaluation) : (appendFrame ev s).replies = s.replies := by
  simp [appendFrame]
@[simp] theorem appendFrame_pending (s : State) (ev : Evaluation) : (appendFrame ev s).pending = s.pending := by
  simp [appendFrame]

@[simp] theorem startPending_du (s : State) : (startPending s).du = s.du := by
  unfold startPending; split
  all_goals simp
@[simp] theorem startPending_mu (s : State) : (startPending s).mu = s.mu := by
  unfold startPending; split
  all_goals simp
@[simp] theorem startPending_sq (s : State) : (startPending s).sq = s.sq := by
  unfold startPending; split
  all_goals simp
@[simp] theorem startPending_fj (s : State) : (startPending s).fj = s.fj := by
  unfold startPending; split
  all_goals simp
@[simp] theorem startPending_cap (s : State) : (startPending s).cap = s.cap := by
  unfold startPending; split
  all_goals simp
@[simp] theorem startPending_bp (s : State) : (startPending s).bp = s.bp := by
  unfold startPending; split
  all_goals simp
@[simp] theorem startPending_pins (s : State) : (startPending s).pins = s.pins := by
  unfold startPending; split
  all_goals simp
@[simp] theorem startPending_msCounter (s : State) : (startPending s).msCounter = s.msCounter := by
  unfold startPending; split
  all_goals simp
@[simp] theorem startPending_mem (s : State) : (startPending s).mem = s.mem := by
  unfold startPending; split
  all_goals simp
@[simp] theorem startPending_replies (s : State) : (startPending s).replies = s.replies := by
  unfold startPending; split
  all_goals simp
@[simp] theorem startPending_pending (s : State) : (startPending s).pending = s.pending := by
  unfold startPending; split
  all_goals simp

@[simp] theorem answerRead_td (s : State) (w : Setpoint) (x : BitVec 4) : (answerRead w x s).td = s.td := rfl
@[simp] theorem answerRead_lt (s : State) (w : Setpoint) (x : BitVec 4) : (answerRead w x s).lt = s.lt := rfl
@[simp] theorem answerRead_du (s : State) (w : Setpoint) (x : BitVec 4) : (answerRead w x s).du = s.du := rfl
@[simp] theorem answerRead_mu (s : State) (w : Setpoint) (x : BitVec 4) : (answerRead w x s).mu = s.mu := rfl
@[simp] theorem answerRead_cu (s : State) (w : Setpoint) (x : BitVec 4) : (answerRead w x s).cu = s.cu := rfl
@[simp] theorem answerRead_am (s : State) (w : Setpoint) (x : BitVec 4) : (answerRead w x s).am = s.am := rfl
@[simp] theorem answerRead_sq (s : State) (w : Setpoint) (x : BitVec 4) : (answerRead w x s).sq = s.sq := rfl
@[simp] theorem answerRead_fj (s : State) (w : Setpoint) (x : BitVec 4) : (answerRead w x s).fj = s.fj := rfl
@[simp] theorem answerRead_cap (s : State) (w : Setpoint) (x : BitVec 4) : (answerRead w x s).cap = s.cap := rfl
@[simp] theorem answerRead_bp (s : State) (w : Setpoint) (x : BitVec 4) : (answerRead w x s).bp = s.bp := rfl
@[simp] theorem answerRead_pins (s : State) (w : Setpoint) (x : BitVec 4) : (answerRead w x s).pins = s.pins := rfl
@[simp] theorem answerRead_msCounter (s : State) (w : Setpoint) (x : BitVec 4) :
    (answerRead w x s).msCounter = s.msCounter := rfl
@[simp] theorem answerRead_mem (s : State) (w : Setpoint) (x : BitVec 4) : (answerRead w x s).mem = s.mem := rfl
@[simp] theorem answerRead_pending (s : State) (w : Setpoint) (x : BitVec 4) :
    (answerRead w x s).pending = s.pending := rfl

@[simp] theorem releaseReads_td (s : State) : (releaseReads s).td = s.td := by
  unfold releaseReads; dsimp only
  simp only [State.setBp_td]
  exact foldl_keeps _ _ (fun t (h : HeldRead) => answerRead_td t h.word h.transaction) _ s
@[simp] theorem releaseReads_lt (s : State) : (releaseReads s).lt = s.lt := by
  unfold releaseReads; dsimp only
  simp only [State.setBp_lt]
  exact foldl_keeps _ _ (fun t (h : HeldRead) => answerRead_lt t h.word h.transaction) _ s
@[simp] theorem releaseReads_du (s : State) : (releaseReads s).du = s.du := by
  unfold releaseReads; dsimp only
  simp only [State.setBp_du]
  exact foldl_keeps _ _ (fun t (h : HeldRead) => answerRead_du t h.word h.transaction) _ s
@[simp] theorem releaseReads_mu (s : State) : (releaseReads s).mu = s.mu := by
  unfold releaseReads; dsimp only
  simp only [State.setBp_mu]
  exact foldl_keeps _ _ (fun t (h : HeldRead) => answerRead_mu t h.word h.transaction) _ s
@[simp] theorem releaseReads_cu (s : State) : (releaseReads s).cu = s.cu := by
  unfold releaseReads; dsimp only
  simp only [State.setBp_cu]
  exact foldl_keeps _ _ (fun t (h : HeldRead) => answerRead_cu t h.word h.transaction) _ s
@[simp] theorem releaseReads_am (s : State) : (releaseReads s).am = s.am := by
  unfold releaseReads; dsimp only
  simp only [State.setBp_am]
  exact foldl_keeps _ _ (fun t (h : HeldRead) => answerRead_am t h.word h.transaction) _ s
@[simp] theorem releaseReads_sq (s : State) : (releaseReads s).sq = s.sq := by
  unfold releaseReads; dsimp only
  simp only [State.setBp_sq]
  exact foldl_keeps _ _ (fun t (h : HeldRead) => answerRead_sq t h.word h.transaction) _ s
@[simp] theorem releaseReads_fj (s : State) : (releaseReads s).fj = s.fj := by
  unfold releaseReads; dsimp only
  simp only [State.setBp_fj]
  exact foldl_keeps _ _ (fun t (h : HeldRead) => answerRead_fj t h.word h.transaction) _ s
@[simp] theorem releaseReads_cap (s : State) : (releaseReads s).cap = s.cap := by
  unfold releaseReads; dsimp only
  simp only [State.setBp_cap]
  exact foldl_keeps _ _ (fun t (h : HeldRead) => answerRead_cap t h.word h.transaction) _ s
@[simp] theorem releaseReads_pins (s : State) : (releaseReads s).pins = s.pins := by
  unfold releaseReads; dsimp only
  simp only [State.setBp_pins]
  exact foldl_keeps _ _ (fun t (h : HeldRead) => answerRead_pins t h.word h.transaction) _ s
@[simp] theorem releaseReads_msCounter (s : State) : (releaseReads s).msCounter = s.msCounter := by
  unfold releaseReads; dsimp only
  simp only [State.setBp_msCounter]
  exact foldl_keeps _ _ (fun t (h : HeldRead) => answerRead_msCounter t h.word h.transaction) _ s
@[simp] theorem releaseReads_mem (s : State) : (releaseReads s).mem = s.mem := by
  unfold releaseReads; dsimp only
  simp only [State.setBp_mem]
  exact foldl_keeps _ _ (fun t (h : HeldRead) => answerRead_mem t h.word h.transaction) _ s
@[simp] theorem releaseReads_pending (s : State) : (releaseReads s).pending = s.pending := by
  unfold releaseReads; dsimp only
  simp only [State.setBp_pending]
  exact foldl_keeps _ _ (fun t (h : HeldRead) => answerRead_pending t h.word h.transaction) _ s

@[simp] theorem journalCompletion_lt (s : State) (ev : Evaluation) : (journalCompletion ev s).lt = s.lt := by
  simp [journalCompletion]
@[simp] theorem journalCompletion_am (s : State) (ev : Evaluation) : (journalCompletion ev s).am = s.am := by
  simp [journalCompletion]
@[simp] theorem journalCompletion_sq (s : State) (ev : Evaluation) : (journalCompletion ev s).sq = s.sq := by
  simp [journalCompletion]
@[simp] theorem journalCompletion_bp (s : State) (ev : Evaluation) : (journalCompletion ev s).bp = s.bp := by
  simp [journalCompletion]
@[simp] theorem journalCompletion_pins (s : State) (ev : Evaluation) : (journalCompletion ev s).pins = s.pins := by
  simp [journalCompletion]
@[simp] theorem journalCompletion_msCounter (s : State) (ev : Evaluation) :
    (journalCompletion ev s).msCounter = s.msCounter := by
  simp [journalCompletion]
@[simp] theorem journalCompletion_mem (s : State) (ev : Evaluation) : (journalCompletion ev s).mem = s.mem := by
  simp [journalCompletion]
@[simp] theorem journalCompletion_replies (s : State) (ev : Evaluation) :
    (journalCompletion ev s).replies = s.replies := by
  simp [journalCompletion]
@[simp] theorem journalCompletion_pending (s : State) (ev : Evaluation) :
    (journalCompletion ev s).pending = s.pending := by
  simp [journalCompletion]

@[simp] theorem settleCompletion_lt (s : State) (ev : Evaluation) : (settleCompletion ev s).lt = s.lt := by
  simp [settleCompletion]
@[simp] theorem settleCompletion_bp (s : State) (ev : Evaluation) : (settleCompletion ev s).bp = s.bp := by
  simp [settleCompletion]
@[simp] theorem settleCompletion_pins (s : State) (ev : Evaluation) : (settleCompletion ev s).pins = s.pins := by
  simp [settleCompletion]
@[simp] theorem settleCompletion_msCounter (s : State) (ev : Evaluation) :
    (settleCompletion ev s).msCounter = s.msCounter := by
  simp [settleCompletion]
@[simp] theorem settleCompletion_mem (s : State) (ev : Evaluation) : (settleCompletion ev s).mem = s.mem := by
  simp [settleCompletion]
@[simp] theorem settleCompletion_replies (s : State) (ev : Evaluation) :
    (settleCompletion ev s).replies = s.replies := by
  simp [settleCompletion]
@[simp] theorem settleCompletion_pending (s : State) (ev : Evaluation) :
    (settleCompletion ev s).pending = s.pending := by
  simp [settleCompletion]

@[simp] theorem completeEvaluation_pins (s : State) (ev : Evaluation) : (completeEvaluation ev s).pins = s.pins := by
  simp [completeEvaluation]
@[simp] theorem completeEvaluation_msCounter (s : State) (ev : Evaluation) :
    (completeEvaluation ev s).msCounter = s.msCounter := by
  simp [completeEvaluation]
@[simp] theorem completeEvaluation_mem (s : State) (ev : Evaluation) : (completeEvaluation ev s).mem = s.mem := by
  simp [completeEvaluation]
@[simp] theorem completeEvaluation_pending (s : State) (ev : Evaluation) :
    (completeEvaluation ev s).pending = s.pending := by
  simp [completeEvaluation]

@[simp] theorem driveLinkRead_td (s : State) (w : Setpoint) (x : BitVec 4) : (driveLinkRead w x s).td = s.td := by
  unfold driveLinkRead; repeat' split
  all_goals simp
@[simp] theorem driveLinkRead_lt (s : State) (w : Setpoint) (x : BitVec 4) : (driveLinkRead w x s).lt = s.lt := by
  unfold driveLinkRead; repeat' split
  all_goals simp
@[simp] theorem driveLinkRead_du (s : State) (w : Setpoint) (x : BitVec 4) : (driveLinkRead w x s).du = s.du := by
  unfold driveLinkRead; repeat' split
  all_goals simp
@[simp] theorem driveLinkRead_mu (s : State) (w : Setpoint) (x : BitVec 4) : (driveLinkRead w x s).mu = s.mu := by
  unfold driveLinkRead; repeat' split
  all_goals simp
@[simp] theorem driveLinkRead_cu (s : State) (w : Setpoint) (x : BitVec 4) : (driveLinkRead w x s).cu = s.cu := by
  unfold driveLinkRead; repeat' split
  all_goals simp
@[simp] theorem driveLinkRead_am (s : State) (w : Setpoint) (x : BitVec 4) : (driveLinkRead w x s).am = s.am := by
  unfold driveLinkRead; repeat' split
  all_goals simp
@[simp] theorem driveLinkRead_sq (s : State) (w : Setpoint) (x : BitVec 4) : (driveLinkRead w x s).sq = s.sq := by
  unfold driveLinkRead; repeat' split
  all_goals simp
@[simp] theorem driveLinkRead_fj (s : State) (w : Setpoint) (x : BitVec 4) : (driveLinkRead w x s).fj = s.fj := by
  unfold driveLinkRead; repeat' split
  all_goals simp
@[simp] theorem driveLinkRead_cap (s : State) (w : Setpoint) (x : BitVec 4) : (driveLinkRead w x s).cap = s.cap := by
  unfold driveLinkRead; repeat' split
  all_goals simp
@[simp] theorem driveLinkRead_pins (s : State) (w : Setpoint) (x : BitVec 4) :
    (driveLinkRead w x s).pins = s.pins := by
  unfold driveLinkRead; repeat' split
  all_goals simp
@[simp] theorem driveLinkRead_msCounter (s : State) (w : Setpoint) (x : BitVec 4) :
    (driveLinkRead w x s).msCounter = s.msCounter := by
  unfold driveLinkRead; repeat' split
  all_goals simp
@[simp] theorem driveLinkRead_mem (s : State) (w : Setpoint) (x : BitVec 4) : (driveLinkRead w x s).mem = s.mem := by
  unfold driveLinkRead; repeat' split
  all_goals simp
@[simp] theorem driveLinkRead_pending (s : State) (w : Setpoint) (x : BitVec 4) :
    (driveLinkRead w x s).pending = s.pending := by
  unfold driveLinkRead; repeat' split
  all_goals simp

@[simp] theorem sequenceCheck_td (s : State) (g : BitVec 8) : (sequenceCheck g s).td = s.td := by
  unfold sequenceCheck; split
  all_goals simp
@[simp] theorem sequenceCheck_lt (s : State) (g : BitVec 8) : (sequenceCheck g s).lt = s.lt := by
  unfold sequenceCheck; split
  all_goals simp
@[simp] theorem sequenceCheck_du (s : State) (g : BitVec 8) : (sequenceCheck g s).du = s.du := by
  unfold sequenceCheck; split
  all_goals simp
@[simp] theorem sequenceCheck_mu (s : State) (g : BitVec 8) : (sequenceCheck g s).mu = s.mu := by
  unfold sequenceCheck; split
  all_goals simp
@[simp] theorem sequenceCheck_cu (s : State) (g : BitVec 8) : (sequenceCheck g s).cu = s.cu := by
  unfold sequenceCheck; split
  all_goals simp
@[simp] theorem sequenceCheck_am (s : State) (g : BitVec 8) : (sequenceCheck g s).am = s.am := by
  unfold sequenceCheck; split
  all_goals simp
@[simp] theorem sequenceCheck_sq (s : State) (g : BitVec 8) : (sequenceCheck g s).sq = s.sq := by
  unfold sequenceCheck; split
  all_goals simp
@[simp] theorem sequenceCheck_bp (s : State) (g : BitVec 8) : (sequenceCheck g s).bp = s.bp := by
  unfold sequenceCheck; split
  all_goals simp
@[simp] theorem sequenceCheck_pins (s : State) (g : BitVec 8) : (sequenceCheck g s).pins = s.pins := by
  unfold sequenceCheck; split
  all_goals simp
@[simp] theorem sequenceCheck_msCounter (s : State) (g : BitVec 8) : (sequenceCheck g s).msCounter = s.msCounter := by
  unfold sequenceCheck; split
  all_goals simp
@[simp] theorem sequenceCheck_mem (s : State) (g : BitVec 8) : (sequenceCheck g s).mem = s.mem := by
  unfold sequenceCheck; split
  all_goals simp
@[simp] theorem sequenceCheck_replies (s : State) (g : BitVec 8) : (sequenceCheck g s).replies = s.replies := by
  unfold sequenceCheck; split
  all_goals simp
@[simp] theorem sequenceCheck_pending (s : State) (g : BitVec 8) : (sequenceCheck g s).pending = s.pending := by
  unfold sequenceCheck; split
  all_goals simp

@[simp] theorem overrunCheck_td (s : State) : (overrunCheck s).td = s.td := by
  unfold overrunCheck; split
  all_goals simp
@[simp] theorem overrunCheck_lt (s : State) : (overrunCheck s).lt = s.lt := by
  unfold overrunCheck; split
  all_goals simp
@[simp] theorem overrunCheck_du (s : State) : (overrunCheck s).du = s.du := by
  unfold overrunCheck; split
  all_goals simp
@[simp] theorem overrunCheck_mu (s : State) : (overrunCheck s).mu = s.mu := by
  unfold overrunCheck; split
  all_goals simp
@[simp] theorem overrunCheck_cu (s : State) : (overrunCheck s).cu = s.cu := by
  unfold overrunCheck; split
  all_goals simp
@[simp] theorem overrunCheck_am (s : State) : (overrunCheck s).am = s.am := by
  unfold overrunCheck; split
  all_goals simp
@[simp] theorem overrunCheck_sq (s : State) : (overrunCheck s).sq = s.sq := by
  unfold overrunCheck; split
  all_goals simp
@[simp] theorem overrunCheck_bp (s : State) : (overrunCheck s).bp = s.bp := by
  unfold overrunCheck; split
  all_goals simp
@[simp] theorem overrunCheck_pins (s : State) : (overrunCheck s).pins = s.pins := by
  unfold overrunCheck; split
  all_goals simp
@[simp] theorem overrunCheck_msCounter (s : State) : (overrunCheck s).msCounter = s.msCounter := by
  unfold overrunCheck; split
  all_goals simp
@[simp] theorem overrunCheck_mem (s : State) : (overrunCheck s).mem = s.mem := by
  unfold overrunCheck; split
  all_goals simp
@[simp] theorem overrunCheck_replies (s : State) : (overrunCheck s).replies = s.replies := by
  unfold overrunCheck; split
  all_goals simp
@[simp] theorem overrunCheck_pending (s : State) : (overrunCheck s).pending = s.pending := by
  unfold overrunCheck; split
  all_goals simp

@[simp] theorem takeHeader_lt (s : State) (w : Word) : (takeHeader w s).lt = s.lt := by
  simp [takeHeader]
@[simp] theorem takeHeader_du (s : State) (w : Word) : (takeHeader w s).du = s.du := by
  simp [takeHeader]
@[simp] theorem takeHeader_mu (s : State) (w : Word) : (takeHeader w s).mu = s.mu := by
  simp [takeHeader]
@[simp] theorem takeHeader_cu (s : State) (w : Word) : (takeHeader w s).cu = s.cu := by
  simp [takeHeader]
@[simp] theorem takeHeader_am (s : State) (w : Word) : (takeHeader w s).am = s.am := by
  simp [takeHeader]
@[simp] theorem takeHeader_sq (s : State) (w : Word) : (takeHeader w s).sq = s.sq := by
  simp [takeHeader]
@[simp] theorem takeHeader_bp (s : State) (w : Word) : (takeHeader w s).bp = s.bp := by
  simp [takeHeader]
@[simp] theorem takeHeader_pins (s : State) (w : Word) : (takeHeader w s).pins = s.pins := by
  simp [takeHeader]
@[simp] theorem takeHeader_msCounter (s : State) (w : Word) : (takeHeader w s).msCounter = s.msCounter := by
  simp [takeHeader]
@[simp] theorem takeHeader_mem (s : State) (w : Word) : (takeHeader w s).mem = s.mem := by
  simp [takeHeader]
@[simp] theorem takeHeader_replies (s : State) (w : Word) : (takeHeader w s).replies = s.replies := by
  simp [takeHeader]
@[simp] theorem takeHeader_pending (s : State) (w : Word) : (takeHeader w s).pending = s.pending := by
  simp [takeHeader]

@[simp] theorem takeData_lt (s : State) (k : Fin 30) (w : Word) : (takeData k w s).lt = s.lt := by
  unfold takeData; split
  all_goals simp
@[simp] theorem takeData_du (s : State) (k : Fin 30) (w : Word) : (takeData k w s).du = s.du := by
  unfold takeData; split
  all_goals simp
@[simp] theorem takeData_mu (s : State) (k : Fin 30) (w : Word) : (takeData k w s).mu = s.mu := by
  unfold takeData; split
  all_goals simp
@[simp] theorem takeData_cu (s : State) (k : Fin 30) (w : Word) : (takeData k w s).cu = s.cu := by
  unfold takeData; split
  all_goals simp
@[simp] theorem takeData_am (s : State) (k : Fin 30) (w : Word) : (takeData k w s).am = s.am := by
  unfold takeData; split
  all_goals simp
@[simp] theorem takeData_sq (s : State) (k : Fin 30) (w : Word) : (takeData k w s).sq = s.sq := by
  unfold takeData; split
  all_goals simp
@[simp] theorem takeData_fj (s : State) (k : Fin 30) (w : Word) : (takeData k w s).fj = s.fj := by
  unfold takeData; split
  all_goals simp
@[simp] theorem takeData_cap (s : State) (k : Fin 30) (w : Word) : (takeData k w s).cap = s.cap := by
  unfold takeData; split
  all_goals simp
@[simp] theorem takeData_bp (s : State) (k : Fin 30) (w : Word) : (takeData k w s).bp = s.bp := by
  unfold takeData; split
  all_goals simp
@[simp] theorem takeData_pins (s : State) (k : Fin 30) (w : Word) : (takeData k w s).pins = s.pins := by
  unfold takeData; split
  all_goals simp
@[simp] theorem takeData_msCounter (s : State) (k : Fin 30) (w : Word) :
    (takeData k w s).msCounter = s.msCounter := by
  unfold takeData; split
  all_goals simp
@[simp] theorem takeData_mem (s : State) (k : Fin 30) (w : Word) : (takeData k w s).mem = s.mem := by
  unfold takeData; split
  all_goals simp
@[simp] theorem takeData_replies (s : State) (k : Fin 30) (w : Word) : (takeData k w s).replies = s.replies := by
  unfold takeData; split
  all_goals simp
@[simp] theorem takeData_pending (s : State) (k : Fin 30) (w : Word) : (takeData k w s).pending = s.pending := by
  unfold takeData; split
  all_goals simp

@[simp] theorem placeSnapshot_du (s : State) (n : Snapshot) : (placeSnapshot n s).du = s.du := by
  unfold placeSnapshot; split
  all_goals simp
@[simp] theorem placeSnapshot_mu (s : State) (n : Snapshot) : (placeSnapshot n s).mu = s.mu := by
  unfold placeSnapshot; split
  all_goals simp
@[simp] theorem placeSnapshot_sq (s : State) (n : Snapshot) : (placeSnapshot n s).sq = s.sq := by
  unfold placeSnapshot; split
  all_goals simp
@[simp] theorem placeSnapshot_bp (s : State) (n : Snapshot) : (placeSnapshot n s).bp = s.bp := by
  unfold placeSnapshot; split
  all_goals simp
@[simp] theorem placeSnapshot_pins (s : State) (n : Snapshot) : (placeSnapshot n s).pins = s.pins := by
  unfold placeSnapshot; split
  all_goals simp
@[simp] theorem placeSnapshot_msCounter (s : State) (n : Snapshot) : (placeSnapshot n s).msCounter = s.msCounter := by
  unfold placeSnapshot; split
  all_goals simp
@[simp] theorem placeSnapshot_mem (s : State) (n : Snapshot) : (placeSnapshot n s).mem = s.mem := by
  unfold placeSnapshot; split
  all_goals simp
@[simp] theorem placeSnapshot_replies (s : State) (n : Snapshot) : (placeSnapshot n s).replies = s.replies := by
  unfold placeSnapshot; split
  all_goals simp
@[simp] theorem placeSnapshot_pending (s : State) (n : Snapshot) : (placeSnapshot n s).pending = s.pending := by
  unfold placeSnapshot; split
  all_goals simp

@[simp] theorem lossDemand_td (s : State) : (lossDemand s).td = s.td := by
  unfold lossDemand; split
  all_goals simp
@[simp] theorem lossDemand_lt (s : State) : (lossDemand s).lt = s.lt := by
  unfold lossDemand; split
  all_goals simp
@[simp] theorem lossDemand_du (s : State) : (lossDemand s).du = s.du := by
  unfold lossDemand; split
  all_goals simp
@[simp] theorem lossDemand_mu (s : State) : (lossDemand s).mu = s.mu := by
  unfold lossDemand; split
  all_goals simp
@[simp] theorem lossDemand_am (s : State) : (lossDemand s).am = s.am := by
  unfold lossDemand; split
  all_goals simp
@[simp] theorem lossDemand_bp (s : State) : (lossDemand s).bp = s.bp := by
  unfold lossDemand; split
  all_goals simp
@[simp] theorem lossDemand_pins (s : State) : (lossDemand s).pins = s.pins := by
  unfold lossDemand; split
  all_goals simp
@[simp] theorem lossDemand_msCounter (s : State) : (lossDemand s).msCounter = s.msCounter := by
  unfold lossDemand; split
  all_goals simp
@[simp] theorem lossDemand_mem (s : State) : (lossDemand s).mem = s.mem := by
  unfold lossDemand; split
  all_goals simp
@[simp] theorem lossDemand_replies (s : State) : (lossDemand s).replies = s.replies := by
  unfold lossDemand; split
  all_goals simp
@[simp] theorem lossDemand_pending (s : State) : (lossDemand s).pending = s.pending := by
  unfold lossDemand; split
  all_goals simp

@[simp] theorem windowRead_td (s : State) (m : Master) (w : Fin 4) (x : BitVec 4) :
    (windowRead m w x s).td = s.td := by
  unfold windowRead; split
  all_goals simp
@[simp] theorem windowRead_lt (s : State) (m : Master) (w : Fin 4) (x : BitVec 4) :
    (windowRead m w x s).lt = s.lt := by
  unfold windowRead; split
  all_goals simp
@[simp] theorem windowRead_du (s : State) (m : Master) (w : Fin 4) (x : BitVec 4) :
    (windowRead m w x s).du = s.du := by
  unfold windowRead; split
  all_goals simp
@[simp] theorem windowRead_mu (s : State) (m : Master) (w : Fin 4) (x : BitVec 4) :
    (windowRead m w x s).mu = s.mu := by
  unfold windowRead; split
  all_goals simp
@[simp] theorem windowRead_cu (s : State) (m : Master) (w : Fin 4) (x : BitVec 4) :
    (windowRead m w x s).cu = s.cu := by
  unfold windowRead; split
  all_goals simp
@[simp] theorem windowRead_am (s : State) (m : Master) (w : Fin 4) (x : BitVec 4) :
    (windowRead m w x s).am = s.am := by
  unfold windowRead; split
  all_goals simp
@[simp] theorem windowRead_sq (s : State) (m : Master) (w : Fin 4) (x : BitVec 4) :
    (windowRead m w x s).sq = s.sq := by
  unfold windowRead; split
  all_goals simp
@[simp] theorem windowRead_cap (s : State) (m : Master) (w : Fin 4) (x : BitVec 4) :
    (windowRead m w x s).cap = s.cap := by
  unfold windowRead; split
  all_goals simp
@[simp] theorem windowRead_bp (s : State) (m : Master) (w : Fin 4) (x : BitVec 4) :
    (windowRead m w x s).bp = s.bp := by
  unfold windowRead; split
  all_goals simp
@[simp] theorem windowRead_pins (s : State) (m : Master) (w : Fin 4) (x : BitVec 4) :
    (windowRead m w x s).pins = s.pins := by
  unfold windowRead; split
  all_goals simp
@[simp] theorem windowRead_msCounter (s : State) (m : Master) (w : Fin 4) (x : BitVec 4) :
    (windowRead m w x s).msCounter = s.msCounter := by
  unfold windowRead; split
  all_goals simp
@[simp] theorem windowRead_mem (s : State) (m : Master) (w : Fin 4) (x : BitVec 4) :
    (windowRead m w x s).mem = s.mem := by
  unfold windowRead; split
  all_goals simp
@[simp] theorem windowRead_pending (s : State) (m : Master) (w : Fin 4) (x : BitVec 4) :
    (windowRead m w x s).pending = s.pending := by
  unfold windowRead; split
  all_goals simp

@[simp] theorem ownershipWrite_td (s : State) (m : Master) (l : Lanes) (v : Word) :
    (ownershipWrite m l v s).td = s.td := by
  unfold ownershipWrite; repeat' split
  all_goals simp
@[simp] theorem ownershipWrite_lt (s : State) (m : Master) (l : Lanes) (v : Word) :
    (ownershipWrite m l v s).lt = s.lt := by
  unfold ownershipWrite; repeat' split
  all_goals simp
@[simp] theorem ownershipWrite_du (s : State) (m : Master) (l : Lanes) (v : Word) :
    (ownershipWrite m l v s).du = s.du := by
  unfold ownershipWrite; repeat' split
  all_goals simp
@[simp] theorem ownershipWrite_mu (s : State) (m : Master) (l : Lanes) (v : Word) :
    (ownershipWrite m l v s).mu = s.mu := by
  unfold ownershipWrite; repeat' split
  all_goals simp
@[simp] theorem ownershipWrite_cu (s : State) (m : Master) (l : Lanes) (v : Word) :
    (ownershipWrite m l v s).cu = s.cu := by
  unfold ownershipWrite; repeat' split
  all_goals simp
@[simp] theorem ownershipWrite_am (s : State) (m : Master) (l : Lanes) (v : Word) :
    (ownershipWrite m l v s).am = s.am := by
  unfold ownershipWrite; repeat' split
  all_goals simp
@[simp] theorem ownershipWrite_sq (s : State) (m : Master) (l : Lanes) (v : Word) :
    (ownershipWrite m l v s).sq = s.sq := by
  unfold ownershipWrite; repeat' split
  all_goals simp
@[simp] theorem ownershipWrite_cap (s : State) (m : Master) (l : Lanes) (v : Word) :
    (ownershipWrite m l v s).cap = s.cap := by
  unfold ownershipWrite; repeat' split
  all_goals simp
@[simp] theorem ownershipWrite_pins (s : State) (m : Master) (l : Lanes) (v : Word) :
    (ownershipWrite m l v s).pins = s.pins := by
  unfold ownershipWrite; repeat' split
  all_goals simp
@[simp] theorem ownershipWrite_msCounter (s : State) (m : Master) (l : Lanes) (v : Word) :
    (ownershipWrite m l v s).msCounter = s.msCounter := by
  unfold ownershipWrite; repeat' split
  all_goals simp
@[simp] theorem ownershipWrite_replies (s : State) (m : Master) (l : Lanes) (v : Word) :
    (ownershipWrite m l v s).replies = s.replies := by
  unfold ownershipWrite; repeat' split
  all_goals simp
@[simp] theorem ownershipWrite_pending (s : State) (m : Master) (l : Lanes) (v : Word) :
    (ownershipWrite m l v s).pending = s.pending := by
  unfold ownershipWrite; repeat' split
  all_goals simp

end Sys2Proof.Machine
end

