-- ==== Sys2Proof/Laws/Evaluation.lean ====
section
/-! SUPPORT. What an evaluation's start and its completion leave at each field they write. -/

namespace Sys2Proof.Machine

/-! ### The start -/

@[simp] theorem takePendingAtStart_lt (s : State) : (takePendingAtStart s).lt =
    { effective := s.lt.effective.applyAll s.lt.pendingSet, pendingSet := PendingUpdates.empty } := rfl
@[simp] theorem takePendingAtStart_am (s : State) : (takePendingAtStart s).am =
    { s.am with strikes :=
      (strikesUnder s.msCounter s.lt.effective.general (s.lt.effective.applyAll s.lt.pendingSet).general s.am.strikes) } := rfl
@[simp] theorem takePendingAtStart_td (s : State) : (takePendingAtStart s).td =
    { s.td with channels := Vector.ofFn fun c =>
        refreshRecord (s.lt.effective.applyAll s.lt.pendingSet).channels[c] s.td.channels[c] } := rfl

@[simp] theorem startEvaluation_lt (s : State) (n : Snapshot) : (startEvaluation n s).lt =
    { effective := s.lt.effective.applyAll s.lt.pendingSet, pendingSet := PendingUpdates.empty } := rfl
@[simp] theorem startEvaluation_am (s : State) (n : Snapshot) : (startEvaluation n s).am =
    { s.am with strikes :=
      (strikesUnder s.msCounter s.lt.effective.general (s.lt.effective.applyAll s.lt.pendingSet).general s.am.strikes) } := rfl
@[simp] theorem startEvaluation_td (s : State) (n : Snapshot) : (startEvaluation n s).td =
    { s.td with channels := decodedChannels n (takePendingAtStart s) } := by
  unfold startEvaluation
  dsimp only
  simp only [State.setCu_td, State.setTd_td, takePendingAtStart_td]
@[simp] theorem startEvaluation_cu (s : State) (n : Snapshot) : (startEvaluation n s).cu =
    { s.cu with evaluation := some (computeEvaluation n
        (decodeEvents (takePendingAtStart s).td.channels (decodedChannels n (takePendingAtStart s)))
        ((takePendingAtStart s).setTd
          { (takePendingAtStart s).td with channels := decodedChannels n (takePendingAtStart s) })) } := by
  unfold startEvaluation
  dsimp only
  simp only [State.setCu_cu, State.setTd_cu, takePendingAtStart_cu]

/-- The evaluation in flight computes from the decoded channels and the table of its start. -/
theorem startEvaluation_inFlight (s : State) (n : Snapshot) : (startEvaluation n s).inFlight = true := rfl

/-! ### The completion -/

@[simp] theorem adoptResults_td (s : State) (ev : Evaluation) :
    (adoptResults ev s).td = { s.td with channels := adoptFractions ev s.td.channels } := rfl
@[simp] theorem adoptResults_du (s : State) (ev : Evaluation) : (adoptResults ev s).du = adoptDerating ev := rfl
@[simp] theorem adoptResults_mu (s : State) (ev : Evaluation) :
    (adoptResults ev s).mu = adoptMismatch ev (s.sq.state == .run) s.mu := rfl
@[simp] theorem adoptResults_cu (s : State) (ev : Evaluation) :
    (adoptResults ev s).cu =
      adoptCeilings ev (s.sq.state == .run) (adoptMismatch ev (s.sq.state == .run) s.mu) s.cu := rfl
@[simp] theorem appendFrame_cap (s : State) (ev : Evaluation) : (appendFrame ev s).cap =
    s.cap.append (frameRecord s.cap.pattern ev.snapshot.seq s.sq.state s.cu.e s.td.channels) := rfl

/-- With no snapshot pending nothing begins. -/
theorem startPending_none (s : State) (h : s.td.pendingSnapshot = none) : startPending s = s := by
  simp [startPending, h]

/-- With a snapshot pending its evaluation begins and it is no longer pending. -/
theorem startPending_some (s : State) (n : Snapshot) (h : s.td.pendingSnapshot = some n) :
    startPending s = startEvaluation n (s.setTd { s.td with pendingSnapshot := none }) := by
  simp [startPending, h]

/-- Only the fractions and derate-open flags of the channel records move at a completion. -/
theorem adoptFractions_value (ev : Evaluation) (channels : Vector ChannelRecord 30) (c : Fin 30) :
    (adoptFractions ev channels)[c].value = channels[c].value ∧
    (adoptFractions ev channels)[c].present = channels[c].present ∧
    (adoptFractions ev channels)[c].required = channels[c].required ∧
    (adoptFractions ev channels)[c].failed = channels[c].failed ∧
    (adoptFractions ev channels)[c].faults = channels[c].faults := by
  simp only [adoptFractions, Fin.getElem_fin, Vector.getElem_ofFn]
  split <;> simp [adoptFraction]

/-- The sensor condition and the SENSOR causes do not depend on fractions. -/
theorem sensorCondition_adoptFractions (ev : Evaluation) (channels : Vector ChannelRecord 30) :
    sensorCondition (adoptFractions ev channels) = sensorCondition channels := by
  have h (c : Fin 30) : (adoptFractions ev channels)[c].missing = channels[c].missing := by
    obtain ⟨-, h1, h2, h3, -⟩ := adoptFractions_value ev channels c
    simp only [ChannelRecord.missing, ChannelRecord.usable, h1, h2, h3]
  simp only [sensorCondition, h]

/-- The reads released at a completion are answered in order with the words of that state. -/
theorem releaseReads_replies (s : State) : (releaseReads s).replies = s.replies ++ s.bp.heldReads.map fun h =>
    { master := .dl, transaction := h.transaction, data := substitutedWord h.word s } := by
  have key : ∀ (l : List HeldRead) (u : State), (l.foldl (fun v h => answerRead h.word h.transaction v) u).replies =
      u.replies ++ l.map fun h =>
        { master := .dl, transaction := h.transaction, data := substitutedWord h.word u } := by
    intro l
    induction l with
    | nil => intro u; simp
    | cons h l ih =>
      intro u
      rw [List.foldl_cons, ih]
      have hw : ∀ w : Setpoint, substitutedWord w (answerRead h.word h.transaction u) = substitutedWord w u :=
        fun _ => rfl
      simp only [hw]
      simp [answerRead, State.reply]
  exact key _ _

@[simp] theorem releaseReads_bp (s : State) : (releaseReads s).bp = { s.bp with heldReads := [] } := by
  unfold releaseReads
  simp only [State.setBp_bp]
  rw [foldl_keeps (fun u (h : HeldRead) => answerRead h.word h.transaction u) (fun u => u.bp)
    (fun t h => answerRead_bp t h.word h.transaction)]

end Sys2Proof.Machine
end

