-- ==== Sys2Proof/Laws/Journal.lean ====
section
/-! SUPPORT. What adding, coalescing and closing a record does to the journal and the Capture Unit, and on which parts of
the state it depends. -/

namespace Sys2Proof.Machine

@[simp] theorem addRecord_fj (s : State) (r : Record) :
    (addRecord r s).fj = s.fj.add s.lt.effective.general.attentionMask r := rfl
@[simp] theorem addRecord_cap (s : State) (r : Record) :
    (addRecord r s).cap = s.cap.notify s.lt.effective.general.triggerMask r.kind := rfl

/-- A record of this moment depends on the counter and the sequencer state alone. -/
theorem newRecord_congr (s t : State) (k : RecordKind) (c : Nat) (v : Int) (h1 : s.msCounter = t.msCounter)
    (h2 : s.sq.state = t.sq.state) : newRecord s k c v = newRecord t k c v := by
  simp [newRecord, h1, h2]

/-- An arriving stream record changes the journal by the journal, the masks and the capture alone. -/
theorem streamRecord_congr (s t : State) (r : Record) (h1 : s.fj = t.fj) (h2 : s.lt = t.lt) (h3 : s.cap = t.cap) :
    (streamRecord r s).fj = (streamRecord r t).fj ∧ (streamRecord r s).cap = (streamRecord r t).cap := by
  unfold streamRecord
  rw [h1]
  cases t.fj.records.getLast? with
  | none => simp [h1, h2, h3]
  | some x =>
    by_cases hx : x.kind = r.kind ∧ x.source = r.source
    · simp [hx, h3]
    · simp [hx, h1, h2, h3]

/-- A close changes the journal by the journal, the masks, the capture, the counter and the sequencer state alone. -/
theorem closeRecord_congr (s t : State) (k : RecordKind) (c : Nat) (v : Int) (h1 : s.fj = t.fj) (h2 : s.lt = t.lt)
    (h3 : s.cap = t.cap) (h4 : s.msCounter = t.msCounter) (h5 : s.sq.state = t.sq.state) :
    (closeRecord k c v s).fj = (closeRecord k c v t).fj ∧ (closeRecord k c v s).cap = (closeRecord k c v t).cap := by
  unfold closeRecord
  rw [newRecord_congr s t k c v h4 h5, h1, h4]
  dsimp only
  cases t.fj.openRef k c with
  | none => simp [h1, h2, h3]
  | some x =>
    dsimp only
    split <;> simp [h2, h3]

/-! ### What an addition leaves at each field -/

/-- Replacing an open reference touches the references alone. -/
theorem setRef_keeps (j : FaultJournal) (k : RecordKind) (c : Nat) (x : Option OpenRef) :
    (j.setRef k c x).records = j.records ∧ (j.setRef k c x).nextSeq = j.nextSeq ∧
    (j.setRef k c x).overflow = j.overflow ∧ (j.setRef k c x).owner = j.owner ∧
    (j.setRef k c x).readLatches = j.readLatches ∧ (j.setRef k c x).attention = j.attention := by
  unfold FaultJournal.setRef
  split
  · simp
  · split <;> simp

/-- Filling an open reference touches the references alone. -/
theorem fillRef_keeps (j : FaultJournal) (r : Record) (q : BitVec 16) :
    (j.fillRef r q).records = j.records ∧ (j.fillRef r q).nextSeq = j.nextSeq ∧
    (j.fillRef r q).overflow = j.overflow ∧ (j.fillRef r q).owner = j.owner ∧
    (j.fillRef r q).readLatches = j.readLatches ∧ (j.fillRef r q).attention = j.attention := by
  unfold FaultJournal.fillRef
  split
  · exact setRef_keeps _ _ _ _
  · simp

/-- Retirement numbers nothing and leaves the owner, attention and the open references. -/
theorem retire_keeps (j : FaultJournal) :
    j.retire.nextSeq = j.nextSeq ∧ j.retire.owner = j.owner ∧ j.retire.attention = j.attention ∧
    j.retire.foldbackRef = j.foldbackRef ∧ j.retire.derateRefs = j.derateRefs := by
  unfold FaultJournal.retire
  split
  · simp
  · split <;> simp [FaultJournal.giveUp]

/-- Making room numbers nothing and leaves the owner, attention and the open references. -/
theorem makeRoom_keeps (j : FaultJournal) :
    j.makeRoom.nextSeq = j.nextSeq ∧ j.makeRoom.owner = j.owner ∧ j.makeRoom.attention = j.attention ∧
    j.makeRoom.foldbackRef = j.foldbackRef ∧ j.makeRoom.derateRefs = j.derateRefs := by
  unfold FaultJournal.makeRoom
  split
  · simp
  · split
    · simp [FaultJournal.giveUp]
    · split <;> simp [FaultJournal.giveUp]

/-- Everything an addition does but for the open references. -/
theorem add_fields (j : FaultJournal) (mask : Word) (r : Record) :
    (j.add mask r).nextSeq = j.nextSeq + 1 ∧ (j.add mask r).attention = (j.attention || inMask mask r.kind) ∧
    (j.add mask r).owner = j.owner ∧
    (j.add mask r).records = j.retire.makeRoom.records ++ [{ r with seq := j.nextSeq, repeats := 1 }] ∧
    (j.add mask r).overflow = j.retire.makeRoom.overflow ∧
    (j.add mask r).readLatches = j.retire.makeRoom.readLatches := by
  have f := fillRef_keeps (j.retire.makeRoom.join r) r j.nextSeq
  have m := makeRoom_keeps j.retire
  have n := retire_keeps j
  simp only [FaultJournal.add, FaultJournal.attend, f]
  simp [FaultJournal.join, m, n]

/-- An oldest record with another number stays. -/
theorem retire_of_ne (j : FaultJournal) (h : ∀ x ∈ j.records.head?, x.seq ≠ j.nextSeq) : j.retire = j := by
  unfold FaultJournal.retire
  split
  · rfl
  · next r rest hr => rw [if_neg (h r (by simp [hr]))]

/-- A journal with room gives up nothing. -/
theorem makeRoom_of_lt (j : FaultJournal) (h : j.records.length < Config.journalCapacity) : j.makeRoom = j := by
  unfold FaultJournal.makeRoom
  rw [if_pos h]

/-- An emptied open reference reads empty. -/
theorem openRef_setRef_none (j : FaultJournal) (k : RecordKind) (c : Nat) : (j.setRef k c none).openRef k c = none := by
  unfold FaultJournal.setRef FaultJournal.openRef
  by_cases h1 : k = .foldback
  · simp [h1]
  · by_cases h2 : k = .derate
    · subst h2
      simp only [reduceCtorEq, if_false, if_true, true_and]
      split
      · simp only [Vector.getElem_ofFn]
        rw [if_pos (by omega)]
      · rfl
    · simp [h1, h2]

/-- Emptying one open reference leaves every other. -/
theorem openRef_setRef_other (j : FaultJournal) (kind other : RecordKind) (source k : Nat)
    (hk : (kind = .foldback ∧ source = 0) ∨ (kind = .derate ∧ 18 ≤ source ∧ source ≤ 28))
    (ho : (other = .foldback ∧ k = 0) ∨ (other = .derate ∧ 18 ≤ k ∧ k ≤ 28)) (h : other ≠ kind ∨ k ≠ source) :
    (j.setRef kind source none).openRef other k = j.openRef other k := by
  rcases hk with ⟨rfl, rfl⟩ | ⟨rfl, h1, h2⟩ <;> rcases ho with ⟨rfl, rfl⟩ | ⟨rfl, h3, h4⟩
  · simp at h
  · simp [FaultJournal.setRef, FaultJournal.openRef]
  · simp only [FaultJournal.setRef, FaultJournal.openRef]; split <;> rfl
  · have hne : k ≠ source := h.resolve_left (fun x => x rfl)
    simp only [FaultJournal.setRef, FaultJournal.openRef]
    simp [h3, show k < 29 by omega]
    exact fun x => absurd x hne

/-- A record that is not an open leaves the open references. -/
theorem openRef_add (j : FaultJournal) (mask : Word) (r : Record) (h : r.openFlag = false) (k : RecordKind) (c : Nat) :
    (j.add mask r).openRef k c = j.openRef k c := by
  have m := makeRoom_keeps j.retire
  have n := retire_keeps j
  have key : (j.add mask r).foldbackRef = j.foldbackRef ∧ (j.add mask r).derateRefs = j.derateRefs := by
    simp [FaultJournal.add, FaultJournal.attend, FaultJournal.fillRef, h, FaultJournal.join, m, n]
  simp [FaultJournal.openRef, key]

/-- An open condition record fills its open reference; every other addition leaves a reference. -/
theorem openRef_add_open (j : FaultJournal) (mask : Word) (r : Record) (kind : RecordKind) (source : Nat)
    (hk : (kind = .foldback ∧ source = 0) ∨ (kind = .derate ∧ 18 ≤ source ∧ source ≤ 28)) :
    (r.openFlag = true → r.kind = kind → r.source = source →
      (j.add mask r).openRef kind source = some { seq := j.nextSeq, timestamp := r.timestamp }) ∧
    (r.openFlag = false ∨ r.kind ≠ kind ∨ (r.source ≠ source ∧ r.kind ≠ .foldback) →
      (j.add mask r).openRef kind source = j.openRef kind source) := by
  have m := makeRoom_keeps j.retire
  have n := retire_keeps j
  have key : (j.add mask r).openRef kind source = (if r.openFlag then
      j.setRef r.kind r.source (some { seq := j.nextSeq, timestamp := r.timestamp }) else j).openRef kind source := by
    unfold FaultJournal.add FaultJournal.attend FaultJournal.fillRef
    have hj : ∀ k s x, ((j.retire.makeRoom.join r).setRef k s x).foldbackRef = (j.setRef k s x).foldbackRef ∧
        ((j.retire.makeRoom.join r).setRef k s x).derateRefs = (j.setRef k s x).derateRefs := by
      intro k s x
      unfold FaultJournal.setRef FaultJournal.join
      by_cases h1 : k = .foldback <;> by_cases h2 : k = .derate <;> simp [h1, h2, m, n]
    cases r.openFlag
    · simp [FaultJournal.openRef, FaultJournal.join, m, n]
    · simp only [if_true, FaultJournal.openRef, hj]
  rw [key]
  refine ⟨fun h1 h2 h3 => ?_, fun h => ?_⟩
  · rw [h1, if_pos rfl, h2, h3]
    rcases hk with ⟨rfl, rfl⟩ | ⟨rfl, h4, h5⟩
    · simp [FaultJournal.setRef, FaultJournal.openRef]
    · simp [FaultJournal.setRef, FaultJournal.openRef, h4]
      omega
  · cases ho : r.openFlag with
    | false => simp
    | true => 
      simp only [ho, if_true] at h ⊢
      rcases hk with ⟨rfl, rfl⟩ | ⟨rfl, h4, h5⟩
      · simp only [FaultJournal.openRef, if_true]
        unfold FaultJournal.setRef
        split
        · next hf =>
            rcases h with h | h | h
            · exact absurd h (by simp)
            · exact absurd hf h
            · exact absurd hf h.2
        · split <;> rfl
      · by_cases hf : r.kind = .foldback
        · simp [FaultJournal.setRef, FaultJournal.openRef, hf]
        · by_cases hd : r.kind = .derate
          · have hs : r.source ≠ source := by
              rcases h with h | h | h
              · exact absurd h (by simp)
              · exact absurd hd h
              · exact h.1
            have h6 : ¬ (18 + (source - 18) = r.source) := by omega
            simp [FaultJournal.setRef, FaultJournal.openRef, hd, h6]
          · simp [FaultJournal.setRef, FaultJournal.openRef, hf, hd]

end Sys2Proof.Machine
end

