-- ==== Sys2Proof/Laws/Sequencer.lean ====
section
/-! SUPPORT. What entering a state, a trip demand and a restart do to the sequencer. -/

namespace Sys2Proof.Machine

/-! ### Operations and the vocabulary of the statements -/

theorem newRecord_eq (s : State) (k : RecordKind) (c : Nat) (v : Int) : newRecord s k c v = eventRecord s k c v := rfl
theorem addRecord_eq (s : State) (r : Record) : addRecord r s = s.journalled r := rfl
theorem reply_eq (s : State) (m : Master) (x : BitVec 4) (w : Word) : s.reply m x w = s.replied m x w := rfl
theorem misuse_eq (s : State) (o : Nat) : s.misuse o = s.misused o := rfl
theorem setS4_eq (s : State) (r : Request) (m : Master) (x : RequestResult) : s.setS4 r m x = s.answered r m x := rfl

/-- Entering a state other than DISCHARGE leaves the destination empty. -/
theorem enterState_eq (s : State) (st : SeqState) (h : st ≠ .discharge) (d : Destination) :
    enterState st d s = s.entered st .empty := by
  simp [enterState, State.entered, Sequencer.enter, h, State.setSq, State.setCu, CeilingUnit.zero, expiryAfter]

theorem enterState_discharge (s : State) (d : Destination) : enterState .discharge d s = s.entered .discharge d := by
  simp [enterState, State.entered, Sequencer.enter, State.setSq, State.setCu, CeilingUnit.zero, expiryAfter]

@[simp] theorem enterState_sq (s : State) (st : SeqState) (d : Destination) :
    (enterState st d s).sq = s.sq.enter s.lt.effective.general s.msCounter st d := rfl
@[simp] theorem enterState_cu (s : State) (st : SeqState) (d : Destination) : (enterState st d s).cu = s.cu.zero := rfl

/-! ### Trip demands -/

/-- A demand that meets a live sequencer trips it. -/
theorem enterDemand_live (s : State) (k : TripKind) (h : s.sq.state.live) :
    enterDemand s k = enterState .discharge .tripped (s.setSq (s.sq.setPrimary k)) := by
  unfold enterDemand
  cases hs : s.sq.state <;> simp [hs, SeqState.live] at h <;> rfl

/-- A demand in OFF is discarded. -/
theorem enterDemand_off (s : State) (k : TripKind) (h : s.sq.state = .off) : enterDemand s k = s := by
  unfold enterDemand; rw [h]

/-- A demand in TRIPPED, or in DISCHARGE toward TRIPPED, can only join the secondary causes. -/
theorem enterDemand_tripped (s : State) (k : TripKind)
    (h : s.sq.state = .tripped ∨ s.sq.state = .discharge ∧ s.sq.destination = .tripped) :
    enterDemand s k = s.setSq (s.sq.addSecondary k) := by
  unfold enterDemand
  rcases h with h | ⟨h, hd⟩
  · rw [h]
  · rw [h]; simp [hd]

/-- A demand in DISCHARGE toward OFF sets the primary cause and turns the destination. -/
theorem enterDemand_towardOff (s : State) (k : TripKind) (h : s.sq.state = .discharge)
    (hd : s.sq.destination ≠ .tripped) :
    enterDemand s k = s.setSq { s.sq.setPrimary k with destination := .tripped } := by
  unfold enterDemand
  rw [h]; simp [hd]

/-- A live sequencer takes a demand as its primary cause. -/
theorem takesPrimary_live (q : Sequencer) (h : q.state.live) : q.takesPrimary = true := by
  cases hs : q.state <;> simp_all [SeqState.live, Sequencer.takesPrimary]

/-- One demand that meets a live sequencer. -/
theorem tripDemand_live (s : State) (k : TripKind) (h : s.sq.state.live) : tripDemand k s = s.trippedOn k := by
  have e := enterState_discharge (s.setSq (s.sq.setPrimary k)) .tripped
  simp only [tripDemand, tripDemands, List.foldl_cons, List.foldl_nil, enterDemand_live s k h,
    takesPrimary_live s.sq h, if_true]
  rw [e, addRecord_eq]
  rfl

/-- One demand in OFF. -/
theorem tripDemand_off (s : State) (k : TripKind) (h : s.sq.state = .off) : tripDemand k s = s := by
  simp [tripDemand, tripDemands, enterDemand_off s k h, Sequencer.takesPrimary, h]

/-- One demand where a trip stands already. -/
theorem tripDemand_tripped (s : State) (k : TripKind)
    (h : s.sq.state = .tripped ∨ s.sq.state = .discharge ∧ s.sq.destination = .tripped) :
    tripDemand k s = s.setSq (s.sq.addSecondary k) := by
  have hp : s.sq.takesPrimary = false := by
    rcases h with h | ⟨h, hd⟩
    · simp [Sequencer.takesPrimary, h]
    · simp [Sequencer.takesPrimary, h, hd]
  simp [tripDemand, tripDemands, enterDemand_tripped s k h, hp]

/-- Demands in OFF are discarded. -/
theorem tripDemands_off (s : State) (ks : List TripKind) (h : s.sq.state = .off) : tripDemands ks s = s := by
  have hf : ks.foldl enterDemand s = s := by
    induction ks with
    | nil => rfl
    | cons k ks ih => rw [List.foldl_cons, enterDemand_off s k h, ih]
  unfold tripDemands
  dsimp only
  rw [hf]
  cases ks <;> simp [Sequencer.takesPrimary, h]

/-! ### Standing facts -/

/-- Entering a state keeps the timers sound. -/
theorem enter_timersSound (q : Sequencer) (g : General) (now : Word) (st : SeqState) (d : Destination) :
    TimersSound (q.enter g now st d) := by
  cases st <;> simp [TimersSound, Sequencer.enter]

/-- Appending a secondary cause keeps the holder sound where a trip stands. -/
theorem addSecondary_holderSound (q : Sequencer) (k : TripKind) (h : HolderSound q)
    (hs : q.state = .tripped ∨ q.state = .discharge ∧ q.destination = .tripped) :
    HolderSound (q.addSecondary k) := by
  obtain ⟨h1, h2, h3, h4, h5, h6⟩ := h
  have hp : q.primary.isSome = true := h1.mpr hs
  unfold Sequencer.addSecondary
  split
  · next hk =>
    obtain ⟨hk, hl⟩ := hk
    simp only [Sequencer.holds, Bool.or_eq_false_iff, List.contains_eq_mem, beq_eq_false_iff_ne, ne_eq,
      decide_eq_false_iff_not] at hk
    obtain ⟨hk1, hk2⟩ := hk
    refine ⟨h1, fun hn => ?_, ?_, ?_, ?_, h6⟩
    · rw [show q.primary = none from hn] at hp
      simp at hp
    · simp only [List.length_append, List.length_cons, List.length_nil]
      omega
    · rw [List.nodup_append]
      refine ⟨h4, by simp, fun a ha b hb => ?_⟩
      rw [List.mem_singleton] at hb
      rintro rfl
      exact hk2 (hb ▸ ha)
    · intro k' hk'
      rw [List.mem_append, List.mem_singleton] at hk'
      rcases hk' with hk' | rfl
      · exact h5 k' hk'
      · exact hk1
  · exact ⟨h1, h2, h3, h4, h5, h6⟩

/-- A demand keeps the sequencer sound. -/
theorem enterDemand_sound (s : State) (k : TripKind) (h : HolderSound s.sq) (ht : TimersSound s.sq) :
    HolderSound (enterDemand s k).sq ∧ TimersSound (enterDemand s k).sq := by
  cases hs : s.sq.state with
  | off => rw [enterDemand_off s k hs]; exact ⟨h, ht⟩
  | settle | run | mute =>
    rw [enterDemand_live s k (by rw [hs]; trivial)]
    refine ⟨?_, enter_timersSound _ _ _ _ _⟩
    simp [HolderSound, Sequencer.enter, Sequencer.setPrimary]
  | tripped =>
    rw [enterDemand_tripped s k (.inl hs)]
    refine ⟨addSecondary_holderSound _ _ h (.inl hs), ?_⟩
    simp only [State.setSq_sq, Sequencer.addSecondary]
    split <;> exact ht
  | discharge =>
    by_cases hd : s.sq.destination = .tripped
    · rw [enterDemand_tripped s k (.inr ⟨hs, hd⟩)]
      refine ⟨addSecondary_holderSound _ _ h (.inr ⟨hs, hd⟩), ?_⟩
      simp only [State.setSq_sq, Sequencer.addSecondary]
      split <;> exact ht
    · rw [enterDemand_towardOff s k hs hd]
      refine ⟨?_, ht⟩
      simp [HolderSound, Sequencer.setPrimary, hs]

/-- Demands entered in order keep the sequencer sound. -/
theorem tripDemands_sound (s : State) (ks : List TripKind) (h : HolderSound s.sq) (ht : TimersSound s.sq) :
    HolderSound (tripDemands ks s).sq ∧ TimersSound (tripDemands ks s).sq := by
  have hf : ∀ (l : List TripKind) (u : State), HolderSound u.sq → TimersSound u.sq →
      HolderSound (l.foldl enterDemand u).sq ∧ TimersSound (l.foldl enterDemand u).sq := by
    intro l
    induction l with
    | nil => intro u a b; exact ⟨a, b⟩
    | cons k l ih =>
      intro u a b
      rw [List.foldl_cons]
      exact ih _ (enterDemand_sound u k a b).1 (enterDemand_sound u k a b).2
  unfold tripDemands
  dsimp only
  cases ks with
  | nil => exact ⟨h, ht⟩
  | cons k ks =>
    dsimp only
    split
    · simpa using hf (k :: ks) s h ht
    · exact hf (k :: ks) s h ht

@[simp] theorem clearCauses_sq (s : State) : (clearCauses s).sq = { s.sq with primary := none, secondary := [] } := rfl
@[simp] theorem clearCauses_am (s : State) : (clearCauses s).am =
    { s.am with strikes := if s.sq.holds .arcLockout then [] else s.am.strikes } := rfl
@[simp] theorem restartMismatch_mu (s : State) (a : Bool) : (restartMismatch a s).mu = s.mu.restarted := by
  unfold restartMismatch
  rw [readmissions_mu]
  rfl
@[simp] theorem prepareRestart_sq (s : State) (a : Bool) :
    (prepareRestart a s).sq = { s.sq with primary := none, secondary := [] } := by
  simp [prepareRestart]
@[simp] theorem prepareRestart_am (s : State) (a : Bool) : (prepareRestart a s).am =
    { s.am with strikes := if s.sq.holds .arcLockout then [] else s.am.strikes } := by
  simp [prepareRestart]
@[simp] theorem prepareRestart_mu (s : State) (a : Bool) : (prepareRestart a s).mu = s.mu.restarted := by
  simp [prepareRestart]
@[simp] theorem performRestart_am (s : State) (a : Bool) (n : Nat) : (performRestart a n s).am =
    { s.am with strikes := if s.sq.holds .arcLockout then [] else s.am.strikes } := by
  simp [performRestart]
@[simp] theorem performRestart_mu (s : State) (a : Bool) (n : Nat) : (performRestart a n s).mu = s.mu.restarted := by
  simp [performRestart]

/-- The newest record after a restart is its RESTART record. -/
theorem performRestart_lastRecord (s : State) (a : Bool) (n : Nat) : (performRestart a n s).fj.records.getLast? =
    some { restartRecord (prepareRestart a s) s.sq.primary a n with
      seq := (prepareRestart a s).fj.nextSeq, repeats := 1 } := by
  unfold performRestart
  rw [enterState_fj, addRecord_fj, (add_fields _ _ _).2.2.2.1]
  simp

/-- A restart leaves the sequencer in SETTLE with an empty holder. -/
theorem performRestart_sq (s : State) (a : Bool) (n : Nat) : (performRestart a n s).sq =
    Sequencer.enter { s.sq with primary := none, secondary := [] } s.lt.effective.general s.msCounter .settle .empty := by
  simp [performRestart]

/-- A restart keeps the sequencer sound. -/
theorem performRestart_sound (s : State) (a : Bool) (n : Nat) :
    HolderSound (performRestart a n s).sq ∧ TimersSound (performRestart a n s).sq := by
  rw [performRestart_sq]
  exact ⟨by simp [HolderSound, Sequencer.enter], enter_timersSound _ _ _ _ _⟩

/-! ### Demands entered in order -/

@[simp] theorem tripDemands_sq (ks : List TripKind) (s : State) : (tripDemands ks s).sq = (ks.foldl enterDemand s).sq := by
  unfold tripDemands
  dsimp only
  cases ks with
  | nil => rfl
  | cons k ks =>
    dsimp only
    split
    · simp only [addRecord_sq]
    · rfl

@[simp] theorem tripDemands_cu (ks : List TripKind) (s : State) : (tripDemands ks s).cu = (ks.foldl enterDemand s).cu := by
  unfold tripDemands
  dsimp only
  cases ks with
  | nil => rfl
  | cons k ks =>
    dsimp only
    split
    · simp only [addRecord_cu]
    · rfl

/-- A demand never enters TRIPPED. -/
theorem enterDemand_notTripped (s : State) (k : TripKind) (h : s.sq.state ≠ .tripped) :
    (enterDemand s k).sq.state ≠ .tripped := by
  cases hs : s.sq.state with
  | off => rw [enterDemand_off s k hs]; exact h
  | settle | run | mute =>
    rw [enterDemand_live s k (by rw [hs]; trivial)]
    simp [Sequencer.enter]
  | tripped => exact absurd hs h
  | discharge =>
    by_cases hd : s.sq.destination = .tripped
    · rw [enterDemand_tripped s k (.inr ⟨hs, hd⟩)]
      simp only [State.setSq_sq, Sequencer.addSecondary]
      split <;> simp [hs]
    · rw [enterDemand_towardOff s k hs hd]
      simp [Sequencer.setPrimary, hs]

/-- After a demand the sequencer is not in RUN. -/
theorem enterDemand_notRun (s : State) (k : TripKind) : (enterDemand s k).sq.state ≠ .run := by
  cases hs : s.sq.state with
  | off => rw [enterDemand_off s k hs]; simp [hs]
  | settle | run | mute =>
    rw [enterDemand_live s k (by rw [hs]; trivial)]
    simp [Sequencer.enter]
  | tripped =>
    rw [enterDemand_tripped s k (.inl hs)]
    simp only [State.setSq_sq, Sequencer.addSecondary]
    split <;> simp [hs]
  | discharge =>
    by_cases hd : s.sq.destination = .tripped
    · rw [enterDemand_tripped s k (.inr ⟨hs, hd⟩)]
      simp only [State.setSq_sq, Sequencer.addSecondary]
      split <;> simp [hs]
    · rw [enterDemand_towardOff s k hs hd]
      simp [Sequencer.setPrimary, hs]

/-- A demand leaves the ceilings, or zeroes the enforced ones. -/
theorem enterDemand_cu (s : State) (k : TripKind) :
    (enterDemand s k).cu = s.cu ∨ (enterDemand s k).cu = s.cu.zero := by
  unfold enterDemand
  repeat' split
  all_goals simp

/-- Where drive is off outside RUN, it stays off outside RUN after a demand. -/
theorem enterDemand_quiet (s : State) (k : TripKind) (h : s.sq.state ≠ .run → s.cu.zero = s.cu) :
    (enterDemand s k).cu.zero = (enterDemand s k).cu := by
  cases hs : s.sq.state with
  | off => rw [enterDemand_off s k hs]; exact h (by simp [hs])
  | settle | run | mute =>
    rw [enterDemand_live s k (by rw [hs]; trivial)]
    simp [CeilingUnit.zero]
  | tripped => rw [enterDemand_tripped s k (.inl hs)]; exact h (by simp [hs])
  | discharge =>
    by_cases hd : s.sq.destination = .tripped
    · rw [enterDemand_tripped s k (.inr ⟨hs, hd⟩)]; exact h (by simp [hs])
    · rw [enterDemand_towardOff s k hs hd]; exact h (by simp [hs])

/-- Demands never enter TRIPPED. -/
theorem enterDemands_notTripped (l : List TripKind) (s : State) (h : s.sq.state ≠ .tripped) :
    (l.foldl enterDemand s).sq.state ≠ .tripped := by
  induction l generalizing s with
  | nil => exact h
  | cons k l ih => exact ih _ (enterDemand_notTripped s k h)

/-- Where the sequencer is in RUN after demands there was none. -/
theorem enterDemands_run (l : List TripKind) (s : State) (h : (l.foldl enterDemand s).sq.state = .run) : l = [] := by
  have key : ∀ (l : List TripKind) (u : State), u.sq.state ≠ .run → (l.foldl enterDemand u).sq.state ≠ .run := by
    intro l
    induction l with
    | nil => exact fun u hu => hu
    | cons k l ih => exact fun u _ => ih _ (enterDemand_notRun u k)
  cases l with
  | nil => rfl
  | cons k l => exact absurd h (key l _ (enterDemand_notRun s k))

/-- Demands leave G, C, the C_m and the evaluation. -/
theorem enterDemands_ceilings (l : List TripKind) (s : State) :
    (l.foldl enterDemand s).cu.g = s.cu.g ∧ (l.foldl enterDemand s).cu.c = s.cu.c ∧
    (l.foldl enterDemand s).cu.cm = s.cu.cm ∧ (l.foldl enterDemand s).cu.evaluation = s.cu.evaluation := by
  induction l generalizing s with
  | nil => simp
  | cons k l ih =>
    rw [List.foldl_cons]
    obtain ⟨a, b, c, d⟩ := ih (enterDemand s k)
    rw [a, b, c, d]
    rcases enterDemand_cu s k with h | h <;> rw [h] <;> simp [CeilingUnit.zero]

/-- Where drive is off outside RUN, it is off outside RUN after demands. -/
theorem enterDemands_quiet (l : List TripKind) (s : State) (h : s.sq.state ≠ .run → s.cu.zero = s.cu) :
    (l.foldl enterDemand s).sq.state ≠ .run → (l.foldl enterDemand s).cu.zero = (l.foldl enterDemand s).cu := by
  induction l generalizing s with
  | nil => exact h
  | cons k l ih => exact ih _ (fun _ => enterDemand_quiet s k h)

/-- Further demands of one event become secondary causes in order, where there is room and none repeats. -/
theorem enterDemands_secondary (l : List TripKind) (s : State) (h1 : s.sq.state = .discharge)
    (h2 : s.sq.destination = .tripped) (h3 : ∀ k ∈ l, s.sq.holds k = false) (h4 : l.Nodup)
    (h5 : s.sq.secondary.length + l.length ≤ Config.secondaryCapacity) :
    l.foldl enterDemand s = s.setSq { s.sq with secondary := s.sq.secondary ++ l } := by
  induction l generalizing s with
  | nil => simp [State.setSq]
  | cons k l ih =>
    rw [List.length_cons] at h5
    have hk : enterDemand s k = s.setSq { s.sq with secondary := s.sq.secondary ++ [k] } := by
      rw [enterDemand_tripped s k (.inr ⟨h1, h2⟩), Sequencer.addSecondary,
        if_pos ⟨h3 k (by simp), by omega⟩]
    have hn := List.nodup_cons.mp h4
    rw [List.foldl_cons, hk]
    refine (ih (s.setSq { s.sq with secondary := s.sq.secondary ++ [k] }) h1 h2 ?_ hn.2 ?_).trans ?_
    rotate_left
    · simp only [State.setSq_sq, List.length_append, List.length_cons, List.length_nil]
      omega
    · simp [State.setSq]
    · intro x hx
      have hx3 := h3 x (by simp [hx])
      simp only [Sequencer.holds, Bool.or_eq_false_iff] at hx3
      simp only [State.setSq_sq, Sequencer.holds, Bool.or_eq_false_iff, hx3.1, true_and]
      have := hx3.2
      simp only [List.contains_eq_mem, decide_eq_false_iff_not, List.mem_append, List.mem_singleton, not_or] at this ⊢
      exact ⟨this, fun e => hn.1 (e ▸ hx)⟩

/-- The demands of one event that meets a live sequencer: the first is the primary cause, the others the secondary ones. -/
theorem tripDemands_live (s : State) (k : TripKind) (ks : List TripKind) (h : s.sq.state.live)
    (hn : (k :: ks).Nodup) (hl : ks.length ≤ Config.secondaryCapacity) :
    tripDemands (k :: ks) s =
      let u := enterState .discharge .tripped (s.setSq { s.sq.setPrimary k with secondary := ks })
      addRecord (tripRecord u k s.sq.state) u := by
  have hc := List.nodup_cons.mp hn
  have hf : (k :: ks).foldl enterDemand s =
      enterState .discharge .tripped (s.setSq { s.sq.setPrimary k with secondary := ks }) := by
    rw [List.foldl_cons, enterDemand_live s k h, enterDemands_secondary ks _ rfl rfl ?_ hc.2 ?_]
    · rfl
    · intro x hx
      simp only [enterState_sq, State.setSq_sq, Sequencer.holds, Sequencer.enter, Sequencer.setPrimary]
      simp only [List.contains_nil, Bool.or_false, beq_eq_false_iff_ne, ne_eq, Option.some.injEq]
      exact fun e => hc.1 (e ▸ hx)
    · simpa [Sequencer.enter, Sequencer.setPrimary] using hl
  unfold tripDemands
  dsimp only
  rw [hf, if_pos (takesPrimary_live _ h)]

/-- The demands of one event that meets DISCHARGE toward OFF: the first is the primary cause, the others the secondary
ones, and the destination turns. -/
theorem tripDemands_towardOff (s : State) (k : TripKind) (ks : List TripKind) (h : s.sq.state = .discharge)
    (hd : s.sq.destination ≠ .tripped) (hn : (k :: ks).Nodup) (hl : ks.length ≤ Config.secondaryCapacity) :
    tripDemands (k :: ks) s =
      let u := s.setSq { s.sq.setPrimary k with secondary := ks, destination := .tripped }
      addRecord (tripRecord u k .discharge) u := by
  have hc := List.nodup_cons.mp hn
  have hf : (k :: ks).foldl enterDemand s =
      s.setSq { s.sq.setPrimary k with secondary := ks, destination := .tripped } := by
    rw [List.foldl_cons, enterDemand_towardOff s k h hd]
    rw [enterDemands_secondary ks (s.setSq { s.sq.setPrimary k with destination := .tripped }) h rfl ?_ hc.2 ?_]
    · rfl
    · intro x hx
      simp only [State.setSq_sq, Sequencer.holds, Sequencer.setPrimary]
      simp only [List.contains_nil, Bool.or_false, beq_eq_false_iff_ne, ne_eq, Option.some.injEq]
      exact fun e => hc.1 (e ▸ hx)
    · simpa [Sequencer.setPrimary] using hl
  have hp : s.sq.takesPrimary = true := by simp [Sequencer.takesPrimary, h, hd]
  unfold tripDemands
  dsimp only
  rw [hf, if_pos hp, h]

/-- The demands of one event where a trip stands already can only join the secondary causes. -/
theorem tripDemands_tripped (s : State) (ks : List TripKind)
    (h : s.sq.state = .tripped ∨ s.sq.state = .discharge ∧ s.sq.destination = .tripped) :
    tripDemands ks s = s.setSq { s.sq with secondary := ks.foldl (fun l k =>
      if s.sq.primary ≠ some k ∧ k ∉ l ∧ l.length < 4 then l ++ [k] else l) s.sq.secondary } := by
  have key : ∀ (l : List TripKind) (u : State), u.sq.state = .tripped ∨ u.sq.state = .discharge ∧ u.sq.destination = .tripped →
      l.foldl enterDemand u = u.setSq { u.sq with secondary := l.foldl (fun l k =>
        if u.sq.primary ≠ some k ∧ k ∉ l ∧ l.length < 4 then l ++ [k] else l) u.sq.secondary } := by
    intro l
    induction l with
    | nil => exact fun _ _ => rfl
    | cons k l ih =>
      intro u hu
      have e : u.sq.addSecondary k = { u.sq with secondary :=
          (if u.sq.primary ≠ (some k) ∧ k ∉ u.sq.secondary ∧ u.sq.secondary.length < 4 then u.sq.secondary ++ [k]
          else u.sq.secondary) } := by
        simp only [Sequencer.addSecondary, Sequencer.holds, Config.secondaryCapacity, Bool.or_eq_false_iff,
          beq_eq_false_iff_ne, List.contains_eq_mem, decide_eq_false_iff_not, and_assoc]
        split <;> rfl
      rw [List.foldl_cons, List.foldl_cons, enterDemand_tripped u k hu, e, ih _ (by simpa using hu)]
      rfl
  have hp : s.sq.takesPrimary = false := by
    rcases h with h | ⟨h, hd⟩
    · simp [Sequencer.takesPrimary, h]
    · simp [Sequencer.takesPrimary, h, hd]
  rw [← key ks s h]
  unfold tripDemands
  cases ks <;> simp [hp]

/-! ### Restarts and the ceilings -/

/-- A restart leaves G, C, the C_m and the evaluation, and zeroes the enforced ceilings. -/
theorem performRestart_cu (s : State) (a : Bool) (n : Nat) : (performRestart a n s).cu = s.cu.zero := by
  simp [performRestart]

/-- Outside TRIPPED no automatic restart is made. -/
theorem autoRestart_notTripped (s : State) (h : s.sq.state ≠ .tripped) : autoRestart s = s := by
  unfold autoRestart
  rw [if_neg (fun x => h x.1)]

/-- The automatic restart either is not made or leaves SETTLE with drive off. -/
theorem autoRestart_cases (s : State) :
    autoRestart s = s ∨ s.sq.state = .tripped ∧ autoRestart s = performRestart true 0 s := by
  unfold autoRestart
  split
  · next h => exact .inr ⟨h.1, rfl⟩
  · exact .inl rfl

end Sys2Proof.Machine
end

