-- ==== Sys2Proof/Laws/Completion.lean ====
section
/-! SUPPORT. What a completion leaves at each field, layer by layer: results, records, demands, automatic restart, frame
record, held reads, next evaluation. -/

namespace Sys2Proof.Machine

/-- With an evaluation in flight its completion is performed. -/
theorem exec_evaluationCompletion (s : State) (ev : Evaluation) (h : s.cu.evaluation = some ev) :
    exec .evaluationCompletion s = .next (completeEvaluation ev s) := by
  simp only [exec, execEvaluationCompletion, h]

@[simp] theorem journalCompletion_td (s : State) (ev : Evaluation) :
    (journalCompletion ev s).td = { s.td with channels := adoptFractions ev s.td.channels } := by
  simp [journalCompletion]
@[simp] theorem journalCompletion_du (s : State) (ev : Evaluation) : (journalCompletion ev s).du = adoptDerating ev := by
  simp [journalCompletion]
@[simp] theorem journalCompletion_mu (s : State) (ev : Evaluation) :
    (journalCompletion ev s).mu = adoptMismatch ev (s.sq.state == .run) s.mu := by
  simp [journalCompletion]
@[simp] theorem journalCompletion_cu (s : State) (ev : Evaluation) :
    (journalCompletion ev s).cu =
      adoptCeilings ev (s.sq.state == .run) (adoptMismatch ev (s.sq.state == .run) s.mu) s.cu := by
  simp [journalCompletion]

/-- Outside TRIPPED a completion settles with its demands. -/
theorem settleCompletion_notTripped (s : State) (ev : Evaluation) (h : s.sq.state ≠ .tripped) :
    settleCompletion ev s = tripDemands (demandsOf ev s) (journalCompletion ev s) := by
  unfold settleCompletion
  apply autoRestart_notTripped
  rw [tripDemands_sq]
  exact enterDemands_notTripped _ _ (by simpa using h)

@[simp] theorem settleCompletion_td (s : State) (ev : Evaluation) :
    (settleCompletion ev s).td = { s.td with channels := adoptFractions ev s.td.channels } := by
  simp [settleCompletion]
@[simp] theorem settleCompletion_du (s : State) (ev : Evaluation) : (settleCompletion ev s).du = adoptDerating ev := by
  simp [settleCompletion]

/-- The fields a completion leaves as it settled them. -/
theorem completeEvaluation_settled (s : State) (ev : Evaluation) :
    (completeEvaluation ev s).sq = (settleCompletion ev s).sq ∧ (completeEvaluation ev s).fj = (settleCompletion ev s).fj ∧
    (completeEvaluation ev s).mu = (settleCompletion ev s).mu ∧ (completeEvaluation ev s).du = adoptDerating ev := by
  simp [completeEvaluation]

/-- The frame record is appended from the state a completion settled. -/
theorem completeEvaluation_cap (s : State) (ev : Evaluation) : (completeEvaluation ev s).cap =
    (settleCompletion ev s).cap.append (frameRecord (settleCompletion ev s).cap.pattern ev.snapshot.seq
      (settleCompletion ev s).sq.state (settleCompletion ev s).cu.e (adoptFractions ev s.td.channels)) := by
  simp [completeEvaluation]

/-- The next evaluation leaves the ceilings. -/
theorem startPending_ceilings (s : State) :
    (startPending s).cu.g = s.cu.g ∧ (startPending s).cu.c = s.cu.c ∧ (startPending s).cu.e = s.cu.e ∧
    (startPending s).cu.cm = s.cu.cm ∧ (startPending s).cu.em = s.cu.em := by
  unfold startPending
  split <;> simp

/-- The ceilings a completion leaves are those it settled. -/
theorem completeEvaluation_ceilings (s : State) (ev : Evaluation) :
    (completeEvaluation ev s).cu.g = (settleCompletion ev s).cu.g ∧
    (completeEvaluation ev s).cu.c = (settleCompletion ev s).cu.c ∧
    (completeEvaluation ev s).cu.e = (settleCompletion ev s).cu.e ∧
    (completeEvaluation ev s).cu.cm = (settleCompletion ev s).cu.cm ∧
    (completeEvaluation ev s).cu.em = (settleCompletion ev s).cu.em := by
  obtain ⟨h1, h2, h3, h4, h5⟩ := startPending_ceilings (releaseReads (appendFrame ev (settleCompletion ev s)))
  unfold completeEvaluation
  rw [h1, h2, h3, h4, h5]
  simp

/-- G, C and the C_m as a completion publishes them. -/
theorem settleCompletion_ceilings (s : State) (ev : Evaluation) :
    (settleCompletion ev s).cu.g = (journalCompletion ev s).cu.g ∧
    (settleCompletion ev s).cu.c = (journalCompletion ev s).cu.c ∧
    (settleCompletion ev s).cu.cm = (journalCompletion ev s).cu.cm ∧
    (settleCompletion ev s).cu.evaluation = (journalCompletion ev s).cu.evaluation := by
  have h := enterDemands_ceilings (demandsOf ev s) (journalCompletion ev s)
  unfold settleCompletion
  rcases autoRestart_cases (tripDemands (demandsOf ev s) (journalCompletion ev s)) with e | ⟨-, e⟩
  · rw [e, tripDemands_cu]
    exact h
  · rw [e, performRestart_cu, tripDemands_cu]
    simpa [CeilingUnit.zero] using h

/-- Outside RUN the published ceilings have drive off. -/
theorem journalCompletion_quiet (s : State) (ev : Evaluation) (h : (journalCompletion ev s).sq.state ≠ .run) :
    (journalCompletion ev s).cu.zero = (journalCompletion ev s).cu := by
  have hr : (s.sq.state == SeqState.run) = false := by simpa using h
  rw [journalCompletion_cu, hr]
  simp only [CeilingUnit.zero, adoptCeilings, slew, Bool.false_and, Bool.false_eq_true, if_false, CeilingUnit.mk.injEq,
    true_and, and_true]
  ext i hi
  simp

/-- In RUN after a completion there was no demand, and nothing but the results was adopted. -/
theorem settleCompletion_run (s : State) (ev : Evaluation) (h : (settleCompletion ev s).sq.state = .run) :
    settleCompletion ev s = journalCompletion ev s ∧ s.sq.state = .run := by
  unfold settleCompletion at h ⊢
  rcases autoRestart_cases (tripDemands (demandsOf ev s) (journalCompletion ev s)) with e | ⟨-, e⟩
  · rw [e] at h ⊢
    rw [tripDemands_sq] at h
    have hd := enterDemands_run _ _ h
    rw [hd] at h ⊢
    exact ⟨rfl, by simpa [tripDemands] using h⟩
  · rw [e, performRestart_sq] at h
    simp [Sequencer.enter] at h

/-- Outside RUN after a completion drive is off. -/
theorem settleCompletion_notRun (s : State) (ev : Evaluation) (h : (settleCompletion ev s).sq.state ≠ .run) :
    (settleCompletion ev s).cu.zero = (settleCompletion ev s).cu := by
  unfold settleCompletion at h ⊢
  rcases autoRestart_cases (tripDemands (demandsOf ev s) (journalCompletion ev s)) with e | ⟨-, e⟩
  · rw [e] at h ⊢
    rw [tripDemands_sq] at h
    rw [tripDemands_cu]
    exact enterDemands_quiet (demandsOf ev s) (journalCompletion ev s) (journalCompletion_quiet s ev) h
  · rw [e, performRestart_cu]
    simp only [CeilingUnit.zero]

end Sys2Proof.Machine
end

