-- ==== Sys2Proof/Laws/Memory.lean ====
section
/-! SUPPORT. The shared SRAM: the canonical form is kept, and what a byte reads as after a write. -/

namespace Sys2Proof.Machine

/-- The canonical form, said over the list's structure. -/
theorem Memory.wf_cons (a : Nat) (b : Byte) (m : Memory) :
    Memory.wf ((a, b) :: m) = true ↔
      b ≠ Config.unwrittenByte ∧ (∀ x ∈ m, a < x.1) ∧ Memory.wf m = true := by
  simp only [Memory.wf, List.pairwise_cons, List.all_cons, Bool.and_eq_true, decide_eq_true_eq, bne_iff_ne]
  tauto

theorem Memory.wf_nil : Memory.wf [] = true := rfl

/-- Below every listed address nothing is listed. -/
theorem Memory.readByte_of_lt (m : Memory) (k : Nat) (h : ∀ x ∈ m, k < x.1) :
    m.readByte k = Config.unwrittenByte := by
  induction m with
  | nil => rfl
  | cons x m ih =>
    obtain ⟨a, b⟩ := x
    have ha : k < a := h (a, b) (by simp)
    rw [Memory.readByte, if_neg (by omega)]
    exact ih fun y hy => h y (by simp [hy])

/-- Every address listed after a write is one listed before, or the written one. -/
theorem Memory.writeByte_mem (m : Memory) (k : Nat) (v : Byte) (x : Host.Cell) (hx : x ∈ m.writeByte k v) :
    x ∈ m ∨ x.1 = k := by
  induction m with
  | nil =>
    rw [Memory.writeByte] at hx
    split at hx
    · simp at hx
    · simp only [List.mem_singleton] at hx; right; rw [hx]
  | cons y m ih =>
    obtain ⟨a, b⟩ := y
    rw [Memory.writeByte] at hx
    split at hx
    · split at hx
      · exact Or.inl hx
      · rcases List.mem_cons.mp hx with h | h
        · right; rw [h]
        · exact Or.inl h
    · split at hx
      · split at hx
        · left; simp [hx]
        · rcases List.mem_cons.mp hx with h | h
          · right; rw [h]
          · left; simp [h]
      · rcases List.mem_cons.mp hx with h | h
        · left; simp [h]
        · rcases ih h with h' | h'
          · left; simp [h']
          · exact Or.inr h'

/-- A byte write keeps the canonical form. -/
theorem Memory.writeByte_wf (m : Memory) (k : Nat) (v : Byte) (h : m.wf = true) : (m.writeByte k v).wf = true := by
  induction m with
  | nil =>
    rw [Memory.writeByte]
    split
    · rfl
    · rename_i hv; simp [Memory.wf, hv]
  | cons x m ih =>
    obtain ⟨a, b⟩ := x
    have hc := (Memory.wf_cons a b m).mp h
    obtain ⟨hb, hlt, hm⟩ := hc
    rw [Memory.writeByte]
    split
    · rename_i hk
      split
      · exact h
      · rename_i hv
        rw [Memory.wf_cons]
        refine ⟨hv, ?_, h⟩
        intro y hy
        rcases List.mem_cons.mp hy with hy | hy
        · rw [hy]; exact hk
        · exact Nat.lt_trans hk (hlt y hy)
    · split
      · rename_i hka
        split
        · exact hm
        · rename_i hv
          rw [Memory.wf_cons]
          exact ⟨hv, by rw [hka]; exact hlt, hm⟩
      · rw [Memory.wf_cons]
        refine ⟨hb, ?_, ih hm⟩
        intro y hy
        rcases Memory.writeByte_mem m k v y hy with hy | hy
        · exact hlt y hy
        · omega

/-- What a byte reads as after a byte write. -/
theorem Memory.readByte_writeByte (m : Memory) (k : Nat) (v : Byte) (h : m.wf = true) (j : Nat) :
    (m.writeByte k v).readByte j = if j = k then v else m.readByte j := by
  induction m with
  | nil =>
    rw [Memory.writeByte]
    split
    · rename_i hv; split
      · simp [Memory.readByte, hv]
      · rfl
    · simp only [Memory.readByte]
      by_cases hj : j = k
      · simp [hj]
      · rw [if_neg (fun e => hj e.symm), if_neg hj]
  | cons x m ih =>
    obtain ⟨a, b⟩ := x
    obtain ⟨hb, hlt, hm⟩ := (Memory.wf_cons a b m).mp h
    rw [Memory.writeByte]
    split
    · rename_i hk
      have hnone : Memory.readByte ((a, b) :: m) k = Config.unwrittenByte :=
        Memory.readByte_of_lt _ k (by
          intro y hy
          rcases List.mem_cons.mp hy with hy | hy
          · rw [hy]; exact hk
          · exact Nat.lt_trans hk (hlt y hy))
      split
      · rename_i hv
        by_cases hj : j = k
        · rw [if_pos hj, hj, hnone, hv]
        · rw [if_neg hj]
      · by_cases hj : j = k
        · rw [if_pos hj, hj, Memory.readByte, if_pos rfl]
        · rw [if_neg hj, Memory.readByte, if_neg (fun e => hj e.symm)]
    · split
      · rename_i hka
        split
        · rename_i hv
          by_cases hj : j = k
          · rw [if_pos hj, hj, hv]
            exact Memory.readByte_of_lt m k (by rw [hka]; exact hlt)
          · rw [if_neg hj, Memory.readByte, if_neg (by omega)]
        · by_cases hj : j = k
          · rw [if_pos hj, hj, Memory.readByte, if_pos rfl]
          · rw [if_neg hj, Memory.readByte, if_neg (fun e => hj e.symm), Memory.readByte, if_neg (by omega)]
      · rw [Memory.readByte, Memory.readByte, ih hm]
        by_cases hja : a = j
        · rw [if_pos hja, if_neg (by omega), if_pos hja]
        · rw [if_neg hja, if_neg hja]

/-- A lane write keeps the canonical form. -/
theorem Memory.writeLane_wf (m : Memory) (a : Address) (lanes : Lanes) (w : Word) (i : Nat) (h : m.wf = true) :
    (m.writeLane a lanes w i).wf = true := by
  rw [Memory.writeLane]
  split
  · exact Memory.writeByte_wf _ _ _ h
  · exact h

/-- A word write keeps the canonical form. -/
theorem Memory.writeWord_wf (m : Memory) (a : Address) (lanes : Lanes) (w : Word) (h : m.wf = true) :
    (m.writeWord a lanes w).wf = true := by
  rw [Memory.writeWord]
  exact Memory.writeLane_wf _ _ _ _ _ (Memory.writeLane_wf _ _ _ _ _ (Memory.writeLane_wf _ _ _ _ _
    (Memory.writeLane_wf _ _ _ _ _ h)))

/-- What a byte reads as after a lane write. -/
theorem Memory.readByte_writeLane (m : Memory) (a : Address) (lanes : Lanes) (w : Word) (i : Nat) (h : m.wf = true)
    (j : Nat) : (m.writeLane a lanes w i).readByte j =
      if j = laneAddress a i ∧ lanes.getLsbD i = true then laneByte w i else m.readByte j := by
  rw [Memory.writeLane]
  split
  · rename_i hl; rw [Memory.readByte_writeByte _ _ _ h]; simp [hl]
  · rename_i hl; simp [hl]

/-- A byte outside a written word reads as before. -/
theorem Memory.readByte_writeWord_of_ne (m : Memory) (a : Address) (lanes : Lanes) (w : Word) (h : m.wf = true) (j : Nat)
    (hj : ¬ (laneAddress a 0 ≤ j ∧ j ≤ laneAddress a 3)) : (m.writeWord a lanes w).readByte j = m.readByte j := by
  have h1 := Memory.writeLane_wf m a lanes w 0 h
  have h2 := Memory.writeLane_wf _ a lanes w 1 h1
  have h3 := Memory.writeLane_wf _ a lanes w 2 h2
  simp only [laneAddress] at hj
  rw [Memory.writeWord, Memory.readByte_writeLane _ _ _ _ _ h3, Memory.readByte_writeLane _ _ _ _ _ h2,
    Memory.readByte_writeLane _ _ _ _ _ h1, Memory.readByte_writeLane _ _ _ _ _ h]
  rw [if_neg (by simp only [laneAddress]; omega), if_neg (by simp only [laneAddress]; omega),
    if_neg (by simp only [laneAddress]; omega), if_neg (by simp only [laneAddress]; omega)]

/-- A lane of a written word reads as the written byte if the lane was enabled, and as before if it was not. -/
theorem Memory.readByte_writeWord_lane (m : Memory) (a : Address) (lanes : Lanes) (w : Word) (h : m.wf = true)
    (i : Fin 4) : (m.writeWord a lanes w).readByte (laneAddress a i.val) =
      if lanes.getLsbD i.val = true then laneByte w i.val else m.readByte (laneAddress a i.val) := by
  have h1 := Memory.writeLane_wf m a lanes w 0 h
  have h2 := Memory.writeLane_wf _ a lanes w 1 h1
  have h3 := Memory.writeLane_wf _ a lanes w 2 h2
  rw [Memory.writeWord, Memory.readByte_writeLane _ _ _ _ _ h3, Memory.readByte_writeLane _ _ _ _ _ h2,
    Memory.readByte_writeLane _ _ _ _ _ h1, Memory.readByte_writeLane _ _ _ _ _ h]
  simp only [laneAddress]
  fin_cases i <;> simp

/-- A word's four lane bytes spell the word. -/
theorem word_of_laneBytes (w : Word) :
    BitVec.ofNat 32 ((laneByte w 0).toNat + (laneByte w 1).toNat * 2 ^ 8 + (laneByte w 2).toNat * 2 ^ 16 +
      (laneByte w 3).toNat * 2 ^ 24) = w := by
  apply BitVec.eq_of_toNat_eq
  have hw := w.isLt
  simp only [laneByte, BitVec.toNat_ofNat]
  omega

/-- A word written with all four lanes reads back. -/
theorem Memory.readWord_writeWord (m : Memory) (a : Address) (w : Word) (h : m.wf = true) :
    (m.writeWord a 0xF w).readWord a = w := by
  have e0 := Memory.readByte_writeWord_lane m a 0xF w h 0
  have e1 := Memory.readByte_writeWord_lane m a 0xF w h 1
  have e2 := Memory.readByte_writeWord_lane m a 0xF w h 2
  have e3 := Memory.readByte_writeWord_lane m a 0xF w h 3
  rw [if_pos (by decide)] at e0 e1 e2 e3
  exact (congrArg (BitVec.ofNat 32) (congr (congrArg HAdd.hAdd (congr (congrArg HAdd.hAdd (congr (congrArg HAdd.hAdd
    (congrArg BitVec.toNat e0)) (congrArg (fun b => BitVec.toNat b * 2 ^ 8) e1)))
    (congrArg (fun b => BitVec.toNat b * 2 ^ 16) e2))) (congrArg (fun b => BitVec.toNat b * 2 ^ 24) e3))).trans
    (word_of_laneBytes w)

end Sys2Proof.Machine
end

