-- ==== Sys2Proof/Laws/Invariants.lean ====
section
/-! SUPPORT. The shared operations keep the standing facts: the journal, the capture, the channels, the limits, the modules. -/

namespace Sys2Proof.Machine

/-! ### The journal -/

/-- The distance a record stands from the counter is one more after an addition, while it can be counted. -/
theorem additionsSince_succ (n q : BitVec 16) (h : q ≠ n) : (n + 1 - 1 - q).toNat = (n - 1 - q).toNat + 1 := by
  have hq := q.isLt
  have hn := n.isLt
  have hne : q.toNat ≠ n.toNat := fun e => h (BitVec.eq_of_toNat_eq e)
  have one : (1 : BitVec 16).toNat = 1 := rfl
  simp only [BitVec.toNat_sub, BitVec.toNat_add, one]
  omega

/-- The distance of a record that carries the next number is the largest there is. -/
theorem additionsSince_self (n : BitVec 16) : (n - 1 - n).toNat = 65535 := by
  have hn := n.isLt
  have one : (1 : BitVec 16).toNat = 1 := rfl
  simp only [BitVec.toNat_sub, one]
  omega

/-- Every distance is a 16-bit number. -/
theorem additionsSince_lt (j : FaultJournal) (r : Record) : j.additionsSince r < 65536 := BitVec.isLt _

/-- Records at different distances have different numbers. -/
theorem seq_ne_of_distance (j : FaultJournal) (x y : Record) (h : j.additionsSince y < j.additionsSince x) :
    x.seq ≠ y.seq := by
  intro e
  unfold FaultJournal.additionsSince at h
  rw [e] at h
  exact Nat.lt_irrefl _ h

/-- In a sound journal only the oldest record can carry the next number. -/
theorem next_number_at_head (j : FaultJournal) (h : JournalSound j) (x : Record) (rest : List Record)
    (hr : j.records = x :: rest) : ∀ y ∈ rest, y.seq ≠ j.nextSeq := by
  intro y hy e
  have hp := h.2.1
  rw [hr] at hp
  have hd := (List.pairwise_cons.mp hp).1 y hy
  have hx := additionsSince_lt j x
  unfold FaultJournal.additionsSince at hd hx
  rw [e, additionsSince_self] at hd
  omega

/-- Giving up a record keeps the journal sound: the list loses it, and the marks of its copies clear. -/
theorem giveUp_sound (j : FaultJournal) (h : JournalSound j) (r : Record) (front rest : List Record)
    (hr : j.records = front ++ r :: rest) : JournalSound (j.giveUp r (front ++ rest)) := by
  obtain ⟨h1, h2, h3, h4⟩ := h
  have hsub : (front ++ rest).Sublist j.records := by
    rw [hr]
    exact List.Sublist.append_left (List.sublist_cons_self r rest) front
  refine ⟨Nat.le_trans hsub.length_le h1, h2.sublist hsub, fun x hx => h3 x (hsub.subset hx), ?_⟩
  intro m l hl hheld
  simp only [FaultJournal.giveUp, FaultJournal.unmark, Fin.getElem_fin, Vector.getElem_ofFn, Option.mem_def,
    Option.map_eq_some_iff] at hl
  obtain ⟨l0, hl0, rfl⟩ := hl
  simp only [Bool.and_eq_true, bne_iff_ne, ne_eq] at hheld
  have hh := h4 m l0 (by simpa using hl0) hheld.1
  show (front ++ rest).head?.map Record.seq = some l0.copy.seq
  cases front with
  | cons a front => simpa [hr] using hh
  | nil =>
    rw [hr] at hh
    simp only [List.nil_append, List.head?_cons, Option.map_some, Option.some.injEq] at hh
    exact absurd hh.symm hheld.2

/-- Retirement keeps the journal sound, and afterwards no record carries the next number. -/
theorem retire_sound (j : FaultJournal) (h : JournalSound j) :
    JournalSound j.retire ∧ ∀ x ∈ j.retire.records, x.seq ≠ j.nextSeq := by
  unfold FaultJournal.retire
  split
  · next hr => exact ⟨h, by simp [hr]⟩
  · next r rest hr =>
    have hn := next_number_at_head j h r rest hr
    split
    · exact ⟨giveUp_sound j h r [] rest hr, hn⟩
    · next hne =>
      refine ⟨h, fun x hx => ?_⟩
      rw [hr, List.mem_cons] at hx
      rcases hx with rfl | hx
      · exact hne
      · exact hn x hx

/-- Making room keeps a journal sound, leaves room, and adds no record. -/
theorem makeRoom_sound (j : FaultJournal) (h : JournalSound j) :
    JournalSound j.makeRoom ∧ j.makeRoom.records.length < Config.journalCapacity ∧
    ∀ x ∈ j.makeRoom.records, x ∈ j.records := by
  unfold FaultJournal.makeRoom
  split
  · next hl => exact ⟨h, hl, fun x hx => hx⟩
  · next hl =>
    have hlen : j.records.length = Config.journalCapacity := Nat.le_antisymm h.1 (Nat.le_of_not_lt hl)
    have key : ∀ (r : Record) (front rest : List Record), j.records = front ++ r :: rest →
        JournalSound (j.giveUp r (front ++ rest)) ∧ (front ++ rest).length < Config.journalCapacity ∧
        ∀ x ∈ front ++ rest, x ∈ j.records := by
      intro r front rest hr
      refine ⟨giveUp_sound j h r front rest hr, ?_, fun x hx => ?_⟩
      · rw [← hlen, hr]
        simp only [List.length_append, List.length_cons]
        omega
      · rw [hr]
        simp only [List.mem_append, List.mem_cons] at hx ⊢
        tauto
    split
    · next r hf =>
      obtain ⟨hadv, front, rest, hr, hfront⟩ := List.find?_eq_some_iff_append.mp hf
      have he : j.records.eraseP (fun r => isAdvisory r.kind) = front ++ rest := by
        rw [hr, List.eraseP_append_right _ (fun y hy => by simpa using hfront y hy), List.eraseP_cons_of_pos (p := fun r : Record => isAdvisory r.kind) hadv]
      rw [he]
      exact key r front rest hr
    · split
      · next hr => simp [hr, Config.journalCapacity] at hlen
      · next r rest hr => exact key r [] rest hr

/-- Addition keeps the journal sound. -/
theorem add_sound (j : FaultJournal) (h : JournalSound j) (mask : Word) (r : Record) (hk : r.kind ≠ .none) :
    JournalSound (j.add mask r) := by
  obtain ⟨hs1, hn1⟩ := retire_sound j h
  obtain ⟨hs2, hl2, hsub⟩ := makeRoom_sound j.retire hs1
  obtain ⟨a1, -, -, a4, -, a6⟩ := add_fields j mask r
  have hq : j.retire.makeRoom.nextSeq = j.nextSeq := by rw [(makeRoom_keeps _).1, (retire_keeps _).1]
  have hn : ∀ x ∈ j.retire.makeRoom.records, x.seq ≠ j.nextSeq := fun x hx => hn1 x (hsub x hx)
  have hold : ∀ x ∈ j.retire.makeRoom.records,
      (j.add mask r).additionsSince x = j.retire.makeRoom.additionsSince x + 1 := by
    intro x hx
    unfold FaultJournal.additionsSince
    rw [a1, hq]
    exact additionsSince_succ _ _ (hn x hx)
  refine ⟨?_, ?_, ?_, ?_⟩
  · rw [a4, List.length_append, List.length_singleton]
    omega
  · rw [a4, List.pairwise_append]
    refine ⟨?_, List.pairwise_singleton _ _, ?_⟩
    · refine hs2.2.1.imp_of_mem ?_
      intro x y hx hy hxy
      rw [hold x hx, hold y hy]
      omega
    · intro x hx y hy
      rw [List.mem_singleton] at hy
      subst hy
      rw [hold x hx]
      unfold FaultJournal.additionsSince
      rw [a1]
      simp
  · intro x hx
    rw [a4, List.mem_append, List.mem_singleton] at hx
    rcases hx with hx | rfl
    · exact hs2.2.2.1 x hx
    · exact hk
  · intro m l hl hheld
    rw [a6] at hl
    have hh := hs2.2.2.2 m l hl hheld
    rw [a4]
    cases hr : j.retire.makeRoom.records with
    | nil => simp [hr] at hh
    | cons x rest => simpa [hr] using hh

/-- Removing the record a held mark names keeps the journal sound. -/
theorem remove_sound (j : FaultJournal) (h : JournalSound j) (q : BitVec 16) : JournalSound (j.remove q) := by
  obtain ⟨h1, h2, h3, h4⟩ := h
  have hsub : (j.records.filter fun r => r.seq != q).Sublist j.records := List.filter_sublist
  refine ⟨Nat.le_trans hsub.length_le h1, h2.sublist hsub, fun x hx => h3 x (hsub.subset hx), ?_⟩
  intro m l hl hheld
  simp only [FaultJournal.remove, FaultJournal.unmark, Fin.getElem_fin, Vector.getElem_ofFn, Option.mem_def,
    Option.map_eq_some_iff] at hl
  obtain ⟨l0, hl0, rfl⟩ := hl
  simp only [Bool.and_eq_true, bne_iff_ne, ne_eq] at hheld
  have hh := h4 m l0 (by simpa using hl0) hheld.1
  show (j.records.filter fun r => r.seq != q).head?.map Record.seq = some l0.copy.seq
  cases hr : j.records with
  | nil => simp [hr] at hh
  | cons x rest =>
    rw [hr] at hh
    simp only [List.head?_cons, Option.map_some, Option.some.injEq] at hh
    have hx : (x.seq != q) = true := by
      simp only [bne_iff_ne, ne_eq]
      exact fun e => hheld.2 (hh ▸ e)
    rw [List.filter_cons, if_pos hx]
    simp [hh]

/-- A list with the same numbers in the same order, every record of a true kind, is as sound. -/
theorem records_sound (j : FaultJournal) (h : JournalSound j) (l : List Record)
    (hs : l.map Record.seq = j.records.map Record.seq) (hk : ∀ r ∈ l, r.kind ≠ .none) :
    JournalSound { j with records := l } := by
  obtain ⟨h1, h2, -, h4⟩ := h
  have hlen : l.length = j.records.length := by simpa using congrArg List.length hs
  refine ⟨hlen ▸ h1, ?_, hk, ?_⟩
  · have hp : ∀ l' : List Record, l'.Pairwise (fun x y => j.additionsSince y < j.additionsSince x) ↔
        (l'.map Record.seq).Pairwise (fun x y => (j.nextSeq - 1 - y).toNat < (j.nextSeq - 1 - x).toNat) := by
      intro l'
      rw [List.pairwise_map]
      rfl
    exact (hp l).mpr (hs ▸ (hp j.records).mp h2)
  · intro m x hx hheld
    have hh := h4 m x hx hheld
    have e : ∀ l' : List Record, l'.head?.map Record.seq = (l'.map Record.seq).head? := by
      intro l'
      cases l' <;> rfl
    show l.head?.map Record.seq = _
    rw [e, hs, ← e]
    exact hh

/-- A latch taken from the head, or a latch that holds a copy of the head, keeps the journal sound. -/
theorem setLatch_sound (j : FaultJournal) (h : JournalSound j) (m : Master) (l : Option ReadLatch)
    (hl : ∀ x ∈ l, x.held = true → j.records.head?.map Record.seq = some x.copy.seq) : JournalSound (j.setLatch m l) := by
  obtain ⟨h1, h2, h3, h4⟩ := h
  refine ⟨h1, h2, h3, ?_⟩
  intro k x hx hheld
  simp only [FaultJournal.setLatch, Fin.getElem_fin] at hx
  by_cases hk : (masterIndex m).val = k.val
  · rw [Vector.getElem_set] at hx
    rw [if_pos hk] at hx
    exact hl x hx hheld
  · rw [Vector.getElem_set_ne _ _ hk] at hx
    exact h4 k x hx hheld

/-- A freshly taken latch holds a copy of the head. -/
theorem latchHead_held (j : FaultJournal) (h : j.latchHead.held = true) :
    j.records.head?.map Record.seq = some j.latchHead.copy.seq := by
  unfold FaultJournal.latchHead at h ⊢
  cases hr : j.records with
  | nil => simp [hr] at h
  | cons r rest => simp

/-! ### The capture -/

/-- A trigger keeps an armed capture sound. -/
theorem takeTrigger_sound (c : CaptureUnit) (h : CaptureSound c) (ha : c.state = .armed) : CaptureSound c.takeTrigger := by
  obtain ⟨h1, h2, h3, h4, h5, h6, h7, h8, h9, h10, h11, h12⟩ := h
  have ⟨hc1, hc2⟩ := h10 (by rw [ha]; decide)
  have ⟨hp1, hp2⟩ := h9 ha
  unfold CaptureUnit.takeTrigger
  split
  · next hz =>
    refine ⟨h1, h2, h3, h4, h5, h6, by simp, fun _ => ⟨hp2, ?_⟩, by simp, by simp, h11, h12⟩
    show c.ring.length + c.postCount = c.ring.length
    omega
  · next hz =>
    refine ⟨h1, h2, h3, h4, h5, Nat.le_refl _, fun _ => ⟨?_, ?_⟩, by simp, by simp, fun _ => ⟨hc1, hc2⟩, h11, h12⟩
    · show 1 ≤ c.postCount
      omega
    · show c.ring.length + (c.postCount - c.postCount) = c.ring.length
      omega

/-- Being told of a record keeps the capture sound. -/
theorem notify_sound (c : CaptureUnit) (h : CaptureSound c) (mask : Word) (kind : RecordKind) :
    CaptureSound (c.notify mask kind) := by
  unfold CaptureUnit.notify
  split
  · next ha => exact takeTrigger_sound c h ha.1
  · exact h

/-- The words of channel values, two to a word. -/
theorem valueWords_length (l : List Int) : (valueWords l).length = (l.length + 1) / 2 := by
  match l with
  | [] => simp [valueWords]
  | [_] => simp [valueWords]
  | _ :: _ :: rest =>
    rw [valueWords, List.length_cons, valueWords_length rest, List.length_cons, List.length_cons]
    omega

/-- A frame record of a capture's pattern has the capture's record size. -/
theorem frameRecord_length (c : CaptureUnit) (h : CaptureSound c) (seq : BitVec 8) (st : SeqState) (e : Nat)
    (channels : Vector ChannelRecord 30) :
    (frameRecord c.pattern seq st e channels).words.length = c.recordSize := by
  rw [h.1]
  simp only [FrameRecord.words, frameRecord, List.length_cons, valueWords_length, List.length_map]
  omega

/-- A capture has room for at least two records. -/
theorem capacity_pos (c : CaptureUnit) (h : CaptureSound c) : 2 ≤ c.capacity := by
  have hk : (patternChannels c.pattern).length ≤ 30 := by
    unfold patternChannels
    exact Nat.le_trans (List.length_filter_le _ _) (by simp)
  rw [h.2.1, h.1]
  unfold Config.captureWords
  rw [Nat.le_div_iff_mul_le (by omega)]
  omega

/-- Appending a record of the right size keeps the capture sound. -/
theorem append_sound (c : CaptureUnit) (h : CaptureSound c) (r : FrameRecord) (hr : r.words.length = c.recordSize) :
    CaptureSound (c.append r) := by
  have hcap := capacity_pos c h
  have hword : ∀ b : Bool, ({ r with mark := b } : FrameRecord).words.length = c.recordSize := by
    intro b
    simpa [FrameRecord.words] using hr
  have hlen : ∀ x : FrameRecord, (c.push x).length = if c.ring.length < c.capacity then c.ring.length + 1 else c.ring.length := by
    intro x
    unfold CaptureUnit.push
    split
    · simp
    · simp only [List.length_append, List.length_drop, List.length_singleton]
      omega
  have hmem : ∀ x : FrameRecord, x.words.length = c.recordSize → ∀ f ∈ c.push x, f.words.length = c.recordSize := by
    intro x hx f hf
    unfold CaptureUnit.push at hf
    split at hf
    · rw [List.mem_append, List.mem_singleton] at hf
      rcases hf with hf | rfl
      · exact h.2.2.2.1 f hf
      · exact hx
    · rw [List.mem_append, List.mem_singleton] at hf
      rcases hf with hf | rfl
      · exact h.2.2.2.1 f (List.mem_of_mem_drop hf)
      · exact hx
  obtain ⟨h1, h2, h3, h4, h5, h6, h7, h8, h9, h10, h11, h12⟩ := h
  unfold CaptureUnit.append
  cases hs : c.state with
  | idle => exact ⟨h1, h2, h3, h4, h5, h6, h7, h8, h9, h10, h11, h12⟩
  | frozen => exact ⟨h1, h2, h3, h4, h5, h6, h7, h8, h9, h10, h11, h12⟩
  | armed =>
    have ⟨hc1, hc2⟩ := h10 (by rw [hs]; decide)
    refine ⟨h1, h2, ?_, hmem r hr, h5, h6, ?_, ?_, ?_, ?_, ?_, ?_⟩
    · show (c.push r).length ≤ c.capacity
      rw [hlen]
      split <;> omega
    · intro ha
      simp at ha
    · intro ha
      simp at ha
    · exact fun _ => h9 hs
    · exact fun _ => ⟨hc1, hc2⟩
    · show c.cursorCp ≤ _
      rw [hc1]
      exact Nat.zero_le _
    · show c.cursorSp ≤ _
      rw [hc2]
      exact Nat.zero_le _
  | post =>
    have ⟨hc1, hc2⟩ := h10 (by rw [hs]; decide)
    have ⟨hp1, hp2⟩ := h7 hs
    dsimp only
    refine ⟨h1, h2, ?_, hmem _ (hword _), h5, ?_, ?_, ?_, ?_, fun _ => ⟨hc1, hc2⟩, ?_, ?_⟩
    · show (c.push _).length ≤ c.capacity
      rw [hlen]
      split <;> omega
    · show c.postRemaining - 1 ≤ c.postCount
      omega
    · intro hpost
      have hne : ¬ c.postRemaining - 1 = 0 := fun e => by simp [e] at hpost
      refine ⟨by show 1 ≤ c.postRemaining - 1; omega, ?_⟩
      show (if c.ring.length < c.capacity then c.preTrigger else c.preTrigger - 1) +
        (c.postCount - (c.postRemaining - 1)) = (c.push _).length
      rw [hlen]
      split <;> omega
    · intro hfrozen
      have hz : c.postRemaining - 1 = 0 := by
        by_contra e
        simp [e] at hfrozen
      refine ⟨hz, ?_⟩
      show (if c.ring.length < c.capacity then c.preTrigger else c.preTrigger - 1) + c.postCount = (c.push _).length
      rw [hlen]
      split <;> omega
    · intro harmed
      exfalso
      revert harmed
      dsimp only
      split <;> simp
    · show c.cursorCp ≤ _
      rw [hc1]
      exact Nat.zero_le _
    · show c.cursorSp ≤ _
      rw [hc2]
      exact Nat.zero_le _

/-- A newly armed capture is sound. -/
theorem arm_sound (p : BitVec 30) (n : Nat) (m : CaptureMode) : CaptureSound (CaptureUnit.arm p n m) := by
  simp [CaptureSound, CaptureUnit.arm]

/-! ### The channels -/

/-- Zero lies within every plausible range, and each range is a range. -/
theorem plausibleRange_spec (c : Fin 30) :
    (plausibleRange c).1 ≤ 0 ∧ 0 ≤ (plausibleRange c).2 ∧ (plausibleRange c).1 ≤ (plausibleRange c).2 := by
  revert c
  decide

/-- What a sound channel record is, for one channel. -/
def ChannelRecord.sound (c : Fin 30) (r : ChannelRecord) : Prop :=
  (plausibleRange c).1 ≤ r.value ∧ r.value ≤ (plausibleRange c).2 ∧
  (r.present = false → r.value = 0 ∧ r.faults = 0 ∧ r.failed = false) ∧ r.faults ≤ 15 ∧
  (r.derateOpen = true ↔ r.fraction < Config.fullFraction)

/-- A refresh keeps a record sound. -/
theorem refreshRecord_sound (c : Fin 30) (e : ChannelEntry) (r : ChannelRecord) (h : r.sound c) :
    (refreshRecord e r).sound c := by
  obtain ⟨h1, h2, h3, h4, h5⟩ := h
  obtain ⟨p1, p2, -⟩ := plausibleRange_spec c
  unfold refreshRecord
  split
  · exact ⟨h1, h2, h3, h4, h5⟩
  · exact ⟨p1, p2, fun _ => ⟨rfl, rfl, rfl⟩, Nat.zero_le _, h5⟩

/-- A refresh outside an evaluation keeps a record sound. -/
theorem refreshRecordNow_sound (c : Fin 30) (e : ChannelEntry) (r : ChannelRecord) (h : r.sound c) :
    (refreshRecordNow e r).sound c := by
  unfold refreshRecordNow
  split
  · obtain ⟨h1, h2, h3, h4, -⟩ := refreshRecord_sound c e r h
    exact ⟨h1, h2, h3, h4, by simp⟩
  · exact refreshRecord_sound c e r h

/-- Decoding keeps a record sound. -/
theorem decodeRecord_sound (c : Fin 30) (e : ChannelEntry) (fp : Nat) (n : Snapshot) (r : ChannelRecord)
    (h : r.sound c) : (decodeRecord c e fp n r).sound c := by
  obtain ⟨h1, h2, h3, h4, h5⟩ := h
  obtain ⟨-, -, p3⟩ := plausibleRange_spec c
  have bad : r.present = true → ∀ v, (plausibleRange c).1 ≤ v → v ≤ (plausibleRange c).2 → (badReading fp r v).sound c := by
    intro hp v hv1 hv2
    refine ⟨hv1, hv2, fun hn => ?_, ?_, h5⟩
    · exact absurd (hp.symm.trans hn) (by decide)
    · show min (r.faults + 1) 15 ≤ 15
      omega
  unfold decodeRecord
  split
  · next hp =>
    split
    · exact bad hp _ h1 h2
    · dsimp only
      split
      · next hr =>
        refine ⟨hr.1, hr.2, fun hn => ?_, Nat.zero_le _, h5⟩
        exact absurd (hp.symm.trans hn) (by decide)
      · refine bad hp _ ?_ ?_ <;> (unfold clampInt; omega)
  · exact ⟨h1, h2, h3, h4, h5⟩

/-- A new fraction keeps a record sound. -/
theorem adoptFraction_sound (c : Fin 30) (f : Nat) (r : ChannelRecord) (h : r.sound c) : (adoptFraction f r).sound c := by
  obtain ⟨h1, h2, h3, h4, -⟩ := h
  exact ⟨h1, h2, h3, h4, by simp [adoptFraction]⟩

/-! ### The limits -/

/-- A clamped channel entry lies in its ranges. -/
theorem clampChannel_inRange (a b : Word) : (clampChannel a b).inRange := by
  have h1 := field_lt a 0 5
  have h2 := field_lt a 8 5
  have h3 := field_lt b 0 8
  have h4 := field_lt b 8 4
  have h5 := field_lt b 16 16
  refine ⟨by show field a 0 5 ≤ 31; omega, by show field a 8 5 ≤ 31; omega, ?_, ?_, ?_, ?_, ?_, ?_, ?_, ?_⟩
  · show min (min (field a 16 5) 16) (32 - field a 8 5) ≤ 16
    omega
  · show min (min (field a 16 5) 16) (32 - field a 8 5) ≤ 32 - field a 8 5
    omega
  · show 1 ≤ max 1 (field b 0 8)
    omega
  · show max 1 (field b 0 8) ≤ 255
    omega
  · show field b 8 4 ≤ 15
    omega
  · show -32768 ≤ signedField b 16 16
    unfold signedField toSigned
    split <;> omega
  · show signedField b 16 16 ≤ 32767
    unfold signedField toSigned
    split <;> omega
  · intro hp
    simp only [clampChannel, Bool.and_eq_true, decide_eq_true_eq] at hp ⊢
    omega

/-- A clamped general entry lies in its ranges, and the others stand. -/
theorem clampGeneral_inRange (g : Fin 13) (a b : Word) (x : General) (h : x.inRange) : (clampGeneral g a b x).inRange := by
  have f8 := field_lt b 0 8
  have f8' := field_lt b 16 8
  have f8a := field_lt a 0 8
  have f4 := field_lt b 0 4
  have f16 := field_lt b 16 16
  have mask : ∀ w : Word, clampMask w &&& 0xFFE00001 = 0 := by
    intro w
    unfold clampMask
    rw [BitVec.and_assoc]
    simp
  have cn : ∀ lo hi n : Nat, lo ≤ hi → lo ≤ clampNat lo hi n ∧ clampNat lo hi n ≤ hi := by
    intro lo hi n hle
    unfold clampNat
    omega
  have ci : ∀ lo hi n : Int, lo ≤ hi → lo ≤ clampInt lo hi n ∧ clampInt lo hi n ≤ hi := by
    intro lo hi n hle
    unfold clampInt
    omega
  obtain ⟨h1, h2, h3, h4, h5, h6, h7, h8, h9, h10, h11, h12, h13, h14, h15, h16, h17, h18, h19, h20, h21, h22, h23, h24,
    h25, h26⟩ := h
  fin_cases g <;> simp only [clampGeneral]
  · exact ⟨Nat.min_le_right _ _, Nat.min_le_right _ _, h3, h4, h5, h6, h7, h8, h9, h10, h11, h12, h13, h14, h15, h16,
      h17, h18, h19, h20, h21, h22, h23, h24, h25, h26⟩
  · exact ⟨h1, h2, cn _ _ _ (by decide), ⟨by dsimp only; omega, by dsimp only; omega⟩, h5, h6, h7, h8, h9, h10, h11, h12,
      h13, h14, h15, h16, h17, h18, h19, h20, h21, h22, h23, h24, h25, h26⟩
  · exact ⟨h1, h2, h3, h4, cn _ _ _ (by decide), ⟨by dsimp only; omega, by dsimp only; omega⟩, Nat.min_le_right _ _, h8,
      h9, h10, h11, h12, h13, h14, h15, h16, h17, h18, h19, h20, h21, h22, h23, h24, h25, h26⟩
  · exact ⟨h1, h2, h3, h4, h5, h6, h7, cn _ _ _ (by decide), by dsimp only; omega, h10, h11, h12, h13, h14, h15, h16,
      h17, h18, h19, h20, h21, h22, h23, h24, h25, h26⟩
  · exact ⟨h1, h2, h3, h4, h5, h6, h7, h8, h9, Nat.min_le_right _ _, ⟨by dsimp only; omega, by dsimp only; omega⟩,
      by dsimp only; omega, h13, h14, h15, h16, h17, h18, h19, h20, h21, h22, h23, h24, h25, h26⟩
  · exact ⟨h1, h2, h3, h4, h5, h6, h7, h8, h9, h10, h11, h12, Nat.min_le_right _ _,
      ⟨by dsimp only; omega, by dsimp only; omega⟩, h15, h16, h17, h18, h19, h20, h21, h22, h23, h24, h25, h26⟩
  · exact ⟨h1, h2, h3, h4, h5, h6, h7, h8, h9, h10, h11, h12, h13, h14, cn _ _ _ (by decide), cn _ _ _ (by decide),
      ⟨by dsimp only; omega, by dsimp only; omega⟩, h18, h19, h20, h21, h22, h23, h24, h25, h26⟩
  · exact ⟨h1, h2, h3, h4, h5, h6, h7, h8, h9, h10, h11, h12, h13, h14, h15, h16, h17, cn _ _ _ (by decide),
      cn _ _ _ (by decide), h20, h21, h22, h23, h24, h25, h26⟩
  · exact ⟨h1, h2, h3, h4, h5, h6, h7, h8, h9, h10, h11, h12, h13, h14, h15, h16, h17, h18, h19,
      ⟨by dsimp only; omega, by dsimp only; omega⟩, Nat.min_le_right _ _, h22, h23, h24, h25, h26⟩
  · exact ⟨h1, h2, h3, h4, h5, h6, h7, h8, h9, h10, h11, h12, h13, h14, h15, h16, h17, h18, h19, h20, h21,
      ci _ _ _ (by decide), ci _ _ _ (by decide), h24, h25, h26⟩
  · exact ⟨h1, h2, h3, h4, h5, h6, h7, h8, h9, h10, h11, h12, h13, h14, h15, h16, h17, h18, h19, h20, h21, h22, h23,
      ci _ _ _ (by decide), h25, h26⟩
  · exact ⟨h1, h2, h3, h4, h5, h6, h7, h8, h9, h10, h11, h12, h13, h14, h15, h16, h17, h18, h19, h20, h21, h22, h23, h24,
      mask _, mask _⟩
  · exact ⟨h1, h2, h3, h4, h5, h6, h7, h8, h9, h10, h11, h12, h13, h14, h15, h16, h17, h18, h19, h20, h21, h22, h23, h24,
      h25, h26⟩

/-! ### The modules and V -/

/-- A restart leaves the Mismatch Unit sound. -/
theorem restarted_sound (u : MismatchUnit) (h : MismatchSound u) : MismatchSound u.restarted := by
  refine ⟨fun m hm => ?_, by simp [MismatchUnit.restarted]⟩
  have hg := h.1 m
  simp only [MismatchUnit.restarted, Fin.getElem_fin, Vector.getElem_ofFn, Admission.restarted, Admission.noCause] at hm hg ⊢
  cases h1 : u.admission[m.val].hot <;> cases h2 : u.admission[m.val].sensor <;> simp_all

/-- A module with a cause after a completion is GATED. -/
theorem newAdmission_gated (ev : Evaluation) (m : Fin 8) (n : Nat) (a : Admission)
    (h : (newAdmission ev m n a).noCause = false) : (newAdmission ev m n a).gated = true := by
  revert h
  unfold newAdmission Admission.noCause
  dsimp only
  cases a.gated <;> cases ev.hot[m] <;> cases ev.sensorCauses[m] <;> cases a.mismatch || decide (ev.modPersist ≤ n) <;>
    simp

/-- Outcomes applied leave the Mismatch Unit sound. -/
theorem adoptMismatch_sound (ev : Evaluation) (run : Bool) (u : MismatchUnit) : MismatchSound (adoptMismatch ev run u) := by
  refine ⟨fun m hm => ?_, ?_⟩
  · have e : (adoptMismatch ev run u).admission[m] =
        newAdmission ev m (adoptMismatch ev run u).moduleCounters[m] u.admission[m] := by
      simp only [adoptMismatch, Fin.getElem_fin, Vector.getElem_ofFn]
    rw [e] at hm ⊢
    exact newAdmission_gated _ _ _ _ hm
  · simp only [adoptMismatch, decide_eq_true_eq]

/-- V stays within the full drive. -/
theorem applyVOutcome_le (o : VOutcome) (rise v : Nat) (h : v ≤ Config.fullDrive) :
    applyVOutcome o rise v ≤ Config.fullDrive := by
  cases o with
  | fold k => exact Nat.le_trans (Nat.min_le_left _ _) h
  | rise => exact Nat.min_le_left _ _
  | hold => exact h

end Sys2Proof.Machine
end

