-- ==== Sys2Proof/Laws/Operands.lean ====
section
/-! SUPPORT. Which area each named offset belongs to, and region addresses and offsets as inverses. -/

namespace Sys2Proof.Machine

/-- An offset of the region is found again from its address. -/
theorem regionOffset_regionAddress (s : State) (offset : Nat) (h : offset < 4096) :
    regionOffset s (regionAddress s offset) = some offset := by
  have hr : regionNumber s < 256 := by
    unfold regionNumber
    split <;> exact BitVec.isLt _
  have ha : (regionAddress s offset).toNat = regionNumber s * 4096 + offset := by
    unfold regionAddress Config.regionWords
    simp only [BitVec.toNat_ofNat]
    omega
  unfold regionOffset Config.regionWords
  rw [ha, if_pos (by omega)]
  congr 1
  omega

/-- An address outside the region has no offset. -/
theorem regionOffset_outside (s : State) (a : Address) (h : a.toNat / 4096 ≠ regionNumber s) :
    regionOffset s a = none := by
  unfold regionOffset Config.regionWords
  rw [if_neg h]

theorem areaOf_wordA (e : TwoWordEntry) : areaOf (wordAOffset e) = .limitA e := by
  cases e with
  | channel c => revert c; decide
  | general g => revert g; decide

theorem areaOf_wordB (e : TwoWordEntry) : areaOf (wordBOffset e) = .limitB e := by
  cases e with
  | channel c => revert c; decide
  | general g => revert g; decide

theorem areaOf_oneWord (e : OneWordEntry) : areaOf (oneWordOffset e) = .limitOne e := by
  cases e with
  | coarse curve i => revert curve i; intro curve; cases curve <;> decide
  | fine f => revert f; decide
  | summary n => revert n; decide

theorem areaOf_slot (slot : Fin 32) : areaOf (slotOffset slot) = .telemetry slot := by revert slot; decide

theorem areaOf_setpoint (w : Setpoint) : areaOf (setpointOffset w) = .setpoint w := by
  cases w with
  | exciter => rfl
  | trim m => revert m; decide
  | gate m => revert m; decide

/-- The setpoint words are the offsets below 0x011. -/
theorem areaOf_setpoint_iff (offset : Nat) : (∃ w, areaOf offset = .setpoint w) ↔ offset < 0x011 := by
  have limits (k : Fin 256) (w : Setpoint) : limitArea k ≠ .setpoint w := by
    unfold limitArea
    repeat' split
    all_goals simp
  have choice {c : Prop} [Decidable c] {x y z : Area} (hx : x ≠ z) (hy : y ≠ z) : (if c then x else y) ≠ z := by
    split <;> assumption
  have given {c : Prop} [Decidable c] {x : c → Area} {y : Area} {z : Area} (hx : ∀ h, x h ≠ z) (hy : y ≠ z) :
      (if h : c then x h else y) ≠ z := by
    split
    · exact hx _
    · exact hy
  constructor
  · rintro ⟨w, hw⟩
    by_contra hlt
    revert hw
    unfold areaOf
    rw [if_neg (by omega), dif_neg (by omega), dif_neg (by omega)]
    repeat' first | with_reducible refine given (fun _ => ?_) ?_ | with_reducible refine choice ?_ ?_
    all_goals first | with_reducible exact limits _ _ | exact nofun
  · intro h
    unfold areaOf
    by_cases h0 : offset = 0
    · exact ⟨_, if_pos h0⟩
    · rw [if_neg h0]
      by_cases h1 : 1 ≤ offset ∧ offset < 9
      · exact ⟨_, dif_pos h1⟩
      · rw [dif_neg h1, dif_pos (by omega)]
        exact ⟨_, rfl⟩

theorem areaOf_request (r : Request) : areaOf (requestOffset r) = .request r := by cases r <;> rfl

theorem areaOf_headWindow (w : Fin 4) : areaOf (headWindowOffset w) = .headWindow w := by revert w; decide

theorem areaOf_status (n : Fin 16) : areaOf (0x430 + n.val) = .status n := by revert n; decide

/-- The offsets of plain memory outside the setpoint area and the limit table area. -/
theorem areaOf_plain (offset : Nat) (h : (0x11 ≤ offset ∧ offset < 0x020) ∨ (0x040 ≤ offset ∧ offset < 0x100) ∨
    (0x300 ≤ offset ∧ offset < 0x400) ∨ (0x408 ≤ offset ∧ offset < 0x420) ∨ (0x421 ≤ offset ∧ offset < 0x430) ∨
    (0x444 ≤ offset ∧ offset < 0x480) ∨ 0x483 ≤ offset) : areaOf offset = .plain := by
  unfold areaOf
  rcases h with h | h | h | h | h | h | h
  · rw [if_neg (by omega), dif_neg (by omega), dif_neg (by omega), if_pos (by omega)]
  · rw [if_neg (by omega), dif_neg (by omega), dif_neg (by omega), if_neg (by omega), dif_neg (by omega), if_pos (by
      omega)]
  · rw [if_neg (by omega), dif_neg (by omega), dif_neg (by omega), if_neg (by omega), dif_neg (by omega), if_neg (by
      omega), dif_neg (by omega), dif_neg (by omega), if_pos (by omega)]
  · rw [if_neg (by omega), dif_neg (by omega), dif_neg (by omega), if_neg (by omega), dif_neg (by omega), if_neg (by
      omega), dif_neg (by omega), dif_neg (by omega), if_neg (by omega), dif_neg (by omega), if_neg (by omega),
      dif_neg (by omega), dif_neg (by omega), if_neg (by omega), if_neg (by omega), if_neg (by omega)]
  · rw [if_neg (by omega), dif_neg (by omega), dif_neg (by omega), if_neg (by omega), dif_neg (by omega), if_neg (by
      omega), dif_neg (by omega), dif_neg (by omega), if_neg (by omega), dif_neg (by omega), if_neg (by omega),
      dif_neg (by omega), dif_neg (by omega), if_neg (by omega), if_neg (by omega), if_neg (by omega)]
  · rw [if_neg (by omega), dif_neg (by omega), dif_neg (by omega), if_neg (by omega), dif_neg (by omega), if_neg (by
      omega), dif_neg (by omega), dif_neg (by omega), if_neg (by omega), dif_neg (by omega), if_neg (by omega),
      dif_neg (by omega), dif_neg (by omega), if_neg (by omega), if_neg (by omega), if_neg (by omega)]
  · rw [if_neg (by omega), dif_neg (by omega), dif_neg (by omega), if_neg (by omega), dif_neg (by omega), if_neg (by
      omega), dif_neg (by omega), dif_neg (by omega), if_neg (by omega), dif_neg (by omega), if_neg (by omega),
      dif_neg (by omega), dif_neg (by omega), if_neg (by omega), if_neg (by omega), if_neg (by omega)]

/-- The offsets that no write reaches: read-only served words. -/
theorem areaOf_readOnly (offset : Nat) (h : (0x200 ≤ offset ∧ offset < 0x300) ∨ (0x430 ≤ offset ∧ offset < 0x444) ∨
    (0x480 ≤ offset ∧ offset < 0x483)) :
    (∃ x, areaOf offset = .effectiveView x) ∨ (∃ n, areaOf offset = .status n) ∨
    (∃ w, areaOf offset = .headWindow w) ∨ areaOf offset = .captureStart ∨ areaOf offset = .captureContinue ∨
    areaOf offset = .captureStatus := by
  by_cases h1 : offset < 0x300
  · refine .inl ⟨⟨offset - 0x200, by omega⟩, ?_⟩
    unfold areaOf
    rw [if_neg (by omega), dif_neg (by omega), dif_neg (by omega), if_neg (by omega), dif_neg (by omega), if_neg (by
      omega), dif_neg (by omega), dif_pos (by omega)]
  by_cases h2 : offset < 0x440
  · refine .inr (.inl ⟨⟨offset - 0x430, by omega⟩, ?_⟩)
    unfold areaOf
    rw [if_neg (by omega), dif_neg (by omega), dif_neg (by omega), if_neg (by omega), dif_neg (by omega), if_neg (by
      omega), dif_neg (by omega), dif_neg (by omega), if_neg (by omega), dif_neg (by omega), if_neg (by omega),
      dif_pos (by omega)]
  by_cases h3 : offset < 0x444
  · refine .inr (.inr (.inl ⟨⟨offset - 0x440, by omega⟩, ?_⟩))
    unfold areaOf
    rw [if_neg (by omega), dif_neg (by omega), dif_neg (by omega), if_neg (by omega), dif_neg (by omega), if_neg (by
      omega), dif_neg (by omega), dif_neg (by omega), if_neg (by omega), dif_neg (by omega), if_neg (by omega),
      dif_neg (by omega), dif_pos (by omega)]
  have h4 : offset = 0x480 ∨ offset = 0x481 ∨ offset = 0x482 := by omega
  rcases h4 with rfl | rfl | rfl
  · exact .inr (.inr (.inr (.inl rfl)))
  · exact .inr (.inr (.inr (.inr (.inl rfl))))
  · exact .inr (.inr (.inr (.inr (.inr rfl))))

end Sys2Proof.Machine
end

