-- ==== Sys2Proof/Laws/PerInstr.lean ====
section
/-! SUPPORT. Statements made for every command: the access a command is falls on a word of the area its row names. -/

namespace Sys2Proof.Laws.AreaAgrees

open Sys2Proof.Machine

/-- The offset of the command's access belongs to the area the command's row names; an event has neither. -/
def Statement (i : Instr) : Prop := (accessOffset i).map areaOf = accessArea i

theorem frameHeaderWrite (word : Word) : Statement (.frameHeaderWrite word) := rfl
theorem dataSlotWrite (slot : Fin 32) (word : Word) :
    Statement (.dataSlotWrite slot word) := congrArg some (areaOf_slot slot)
theorem frameEnd (word : Word) : Statement (.frameEnd word) := rfl
theorem frameTimeoutExpiry : Statement .frameTimeoutExpiry := rfl
theorem evaluationCompletion : Statement .evaluationCompletion := rfl
theorem limitWordAWrite (master : Master) (entry : TwoWordEntry) (word : Word) :
    Statement (.limitWordAWrite master entry word) := congrArg some (areaOf_wordA entry)
theorem limitWordBWrite (master : Master) (entry : TwoWordEntry) (word : Word) :
    Statement (.limitWordBWrite master entry word) := congrArg some (areaOf_wordB entry)
theorem limitOneWordWrite (master : Master) (entry : OneWordEntry) (word : Word) :
    Statement (.limitOneWordWrite master entry word) := congrArg some (areaOf_oneWord entry)
theorem dlExciterDriveRead (transaction : BitVec 4) : Statement (.dlExciterDriveRead transaction) := rfl
theorem dlTrimRead (m : Fin 8) (transaction : BitVec 4) :
    Statement (.dlTrimRead m transaction) := congrArg some (areaOf_setpoint (.trim m))
theorem dlGateRead (m : Fin 8) (transaction : BitVec 4) :
    Statement (.dlGateRead m transaction) := congrArg some (areaOf_setpoint (.gate m))
theorem holdOffExpiry : Statement .holdOffExpiry := rfl
theorem arcLineAssert (input : Fin 3) : Statement (.arcLineAssert input) := rfl
theorem arcLineDeassert (input : Fin 3) : Statement (.arcLineDeassert input) := rfl
theorem arcQualifyExpiry (input : Fin 3) : Statement (.arcQualifyExpiry input) := rfl
theorem arcReleaseExpiry (input : Fin 3) : Statement (.arcReleaseExpiry input) := rfl
theorem stuckTimerExpiry (input : Fin 3) : Statement (.stuckTimerExpiry input) := rfl
theorem strikeEntryAgeing : Statement .strikeEntryAgeing := rfl
theorem interlockOpen : Statement .interlockOpen := rfl
theorem interlockClose : Statement .interlockClose := rfl
theorem settleExpiry : Statement .settleExpiry := rfl
theorem quenchExpiry : Statement .quenchExpiry := rfl
theorem dischargeExpiry : Statement .dischargeExpiry := rfl
theorem restart (master : Master) (lanes : Lanes) (value : Word) : Statement (.restart master lanes value) := rfl
theorem stop (master : Master) (lanes : Lanes) (value : Word) : Statement (.stop master lanes value) := rfl
theorem readmit (master : Master) (lanes : Lanes) (value : Word) : Statement (.readmit master lanes value) := rfl
theorem strikeClear (master : Master) (lanes : Lanes) (value : Word) :
    Statement (.strikeClear master lanes value) := rfl
theorem journalClear (master : Master) (lanes : Lanes) (value : Word) :
    Statement (.journalClear master lanes value) := rfl
theorem ownershipClear (master : Master) (lanes : Lanes) (value : Word) :
    Statement (.ownershipClear master lanes value) := rfl
theorem captureArm (master : Master) (lanes : Lanes) (value : Word) :
    Statement (.captureArm master lanes value) := rfl
theorem captureStop (master : Master) (lanes : Lanes) (value : Word) :
    Statement (.captureStop master lanes value) := rfl
theorem ownershipWordRead (master : Master) (transaction : BitVec 4) :
    Statement (.ownershipWordRead master transaction) := rfl
theorem ownershipWordWrite (master : Master) (lanes : Lanes) (value : Word) :
    Statement (.ownershipWordWrite master lanes value) := rfl
theorem headWindowWord0Read (master : Master) (transaction : BitVec 4) :
    Statement (.headWindowWord0Read master transaction) := rfl
theorem headWindowWordRead (master : Master) (word : Fin 4) (transaction : BitVec 4) :
    Statement (.headWindowWordRead master word transaction) := congrArg some (areaOf_headWindow word)
theorem cpS0Read (transaction : BitVec 4) : Statement (.cpS0Read transaction) := rfl
theorem captureStartAliasRead (master : Master) (transaction : BitVec 4) :
    Statement (.captureStartAliasRead master transaction) := rfl
theorem captureContinueAliasRead (master : Master) (transaction : BitVec 4) :
    Statement (.captureContinueAliasRead master transaction) := rfl
theorem absorbedWrite (master : Master) (address : Address) (lanes : Lanes) (value : Word) :
    Statement (.absorbedWrite master address lanes value) := rfl
theorem resetAssert (straps : BitVec 8) : Statement (.resetAssert straps) := rfl
theorem resetRelease (straps : BitVec 8) : Statement (.resetRelease straps) := rfl
theorem millisecondCounterTick : Statement .millisecondCounterTick := rfl

end Sys2Proof.Laws.AreaAgrees
end

