-- ==== Sys2Proof/Laws/Records.lean ====
section
/-! SUPPORT. The records of a completion, of a restart and of a table that takes effect, the start of an evaluation, the restart
checks, and what a completion hands to a pending snapshot, in the vocabulary of the statements. -/

namespace Sys2Proof.Machine

/-! ### What recording depends on -/

/-- Two states at the moment of `s` record alike: all that an addition reads or writes agrees. -/
def SameRecording (s u v : State) : Prop :=
  u.fj = v.fj ∧ u.cap = v.cap ∧ u.lt = v.lt ∧ (u.msCounter = s.msCounter ∧ u.sq.state = s.sq.state) ∧
  v.msCounter = s.msCounter ∧ v.sq.state = s.sq.state

theorem SameRecording.eventRecord {s u v : State} (h : SameRecording s u v) (k : RecordKind) (c : Nat) (x : Int) :
    eventRecord u k c x = eventRecord s k c x := newRecord_congr u s k c x h.2.2.2.1.1 h.2.2.2.1.2

theorem SameRecording.journalled {s u v : State} (h : SameRecording s u v) (r : Record) :
    SameRecording s (u.journalled r) (v.journalled r) := by
  obtain ⟨h1, h2, h3, h4, h5⟩ := h
  exact ⟨by simp [State.journalled, h1, h3], by simp [State.journalled, h2, h3], h3, h4, h5⟩

theorem SameRecording.closeRecord {s u v : State} (h : SameRecording s u v) (k : RecordKind) (c : Nat) (x : Int) :
    SameRecording s (closeRecord k c x u) (closeRecord k c x v) := by
  obtain ⟨h1, h2, h3, h4, h5⟩ := h
  obtain ⟨a, b⟩ := closeRecord_congr u v k c x h1 h3 h2 (h4.1.trans h5.1.symm) (h4.2.trans h5.2.symm)
  exact ⟨a, b, by simpa using h3, by simpa using h4, by simpa using h5⟩

/-- Folding operations that record alike records alike. -/
theorem SameRecording.foldl {α : Type} {s : State} {f g : State → α → State}
    (hfg : ∀ u v a, SameRecording s u v → SameRecording s (f u a) (g v a)) (l : List α) {u v : State}
    (h : SameRecording s u v) : SameRecording s (l.foldl f u) (l.foldl g v) := by
  induction l generalizing u v with
  | nil => exact h
  | cons a l ih => exact ih (hfg u v a h)

/-! ### The records of an evaluation -/

theorem SameRecording.journalChannel {s u v : State} (h : SameRecording s u v) (x : ChannelEvent) :
    SameRecording s (journalChannel u x) (v.journalled
      (Machine.eventRecord s (if x.restored then .channelRestored else .channelFailed) x.channel.val x.value)) := by
  rw [Machine.journalChannel, newRecord_eq, h.eventRecord]
  exact h.journalled _

theorem SameRecording.journalDerate {s u v : State} (h : SameRecording s u v) (ev : Evaluation) (k : Fin 11) :
    SameRecording s (journalDerate ev s.td.channels u k) (
      if ev.fractions[k] < 4096 then
        if s.td.channels[thermalChannel k].derateOpen then v
        else v.journalled { Machine.eventRecord s .derate (18 + k.val) ev.fractions[k] with openFlag := true }
      else if s.td.channels[thermalChannel k].derateOpen then Machine.closeRecord .derate (18 + k.val) 4096 v
      else v) := by
  unfold Machine.journalDerate openRecord
  dsimp only
  rw [newRecord_eq, h.eventRecord]
  by_cases hf : ev.fractions[k] < 4096 <;> by_cases hd : s.td.channels[thermalChannel k].derateOpen = true <;>
    simp only [hf, hd, Config.fullFraction, if_true, if_false, Bool.false_eq_true]
  · exact h
  · exact h.journalled _
  · exact h.closeRecord _ _ _
  · exact h

theorem SameRecording.journalFoldback {s u w : State} (h : SameRecording s u w) (v : Nat) :
    SameRecording s (journalFoldback s.mu.foldbackOpen v u) (
      if v < 4095 then
        if s.mu.foldbackOpen then w else w.journalled { Machine.eventRecord s .foldback 0 v with openFlag := true }
      else if s.mu.foldbackOpen then Machine.closeRecord .foldback 0 4095 w
      else w) := by
  unfold Machine.journalFoldback openRecord
  rw [newRecord_eq, h.eventRecord]
  by_cases hf : v < 4095 <;> by_cases hd : s.mu.foldbackOpen = true <;>
    simp only [hf, hd, Config.fullDrive, if_true, if_false, Bool.false_eq_true]
  · exact h
  · exact h.journalled _
  · exact h.closeRecord _ _ _
  · exact h

theorem SameRecording.journalGated {s u v : State} (h : SameRecording s u v) (after : Vector Admission 8) (m : Fin 8) :
    SameRecording s (journalGated after u m) (v.journalled (Machine.eventRecord s .moduleGated m.val
      (after[m].hot.toNat + 2 * after[m].mismatch.toNat + 4 * after[m].sensor.toNat))) := by
  rw [Machine.journalGated, newRecord_eq, h.eventRecord]
  have e : (causeSetCode after[m] : Int) =
      after[m].hot.toNat + 2 * after[m].mismatch.toNat + 4 * after[m].sensor.toNat := by
    simp only [causeSetCode, Int.natCast_add, Int.natCast_mul, Int.cast_ofNat_Int]
  rw [e]
  exact h.journalled _

/-- The records of an evaluation, added to a state that records like `s`, are those the statements list. -/
theorem journalEvaluation_recorded (ev : Evaluation) (s u : State) (h : SameRecording s u s) :
    SameRecording s (journalEvaluation ev s.td.channels s.mu u) (s.evaluationRecorded ev u.mu.v u.mu.admission) :=
  SameRecording.foldl (fun _ _ m h => h.journalGated u.mu.admission m) _
    ((SameRecording.foldl (fun _ _ k h => h.journalDerate ev k) _
      (SameRecording.foldl (fun _ _ x h => h.journalChannel x) _ h)).journalFoldback u.mu.v)

/-- A completion adds the records the statements list, at the moment it finds. -/
theorem journalCompletion_recorded (ev : Evaluation) (s : State) :
    SameRecording s (journalCompletion ev s)
      (s.evaluationRecorded ev (adoptMismatch ev (s.sq.state == .run) s.mu).v
        (adoptMismatch ev (s.sq.state == .run) s.mu).admission) := by
  have start : SameRecording s (adoptResults ev s) s := ⟨by simp, by simp, by simp, by simp, rfl, rfl⟩
  have key := journalEvaluation_recorded ev s _ start
  rw [adoptResults_mu] at key
  unfold journalCompletion
  exact key

/-- The records of an evaluation leave the sequencer. -/
theorem evaluationRecorded_sq (s : State) (ev : Evaluation) (v : Nat) (after : Vector Admission 8) :
    (s.evaluationRecorded ev v after).sq = s.sq := by
  have keep {α : Type} {f : State → α → State} (h : ∀ u a, (f u a).sq = u.sq) (l : List α) (u : State) :
      (l.foldl f u).sq = u.sq := foldl_keeps f (fun u => u.sq) h l u
  unfold State.evaluationRecorded
  dsimp only
  refine (keep ?_ _ _).trans ?_
  · exact fun _ _ => rfl
  have derates (u : State) (h : u.sq = s.sq) : ((List.finRange 11).foldl (fun u k =>
      if ev.fractions[k] < 4096 then
        if s.td.channels[thermalChannel k].derateOpen then u
        else u.journalled { eventRecord s .derate (18 + k.val) ev.fractions[k] with openFlag := true }
      else if s.td.channels[thermalChannel k].derateOpen then closeRecord .derate (18 + k.val) 4096 u
      else u) u).sq = s.sq := by
    refine (keep (fun u k => ?_) _ _).trans h
    repeat' split
    all_goals first | rfl | exact closeRecord_sq _ _ _ _
  have start := derates _ (keep (f := fun u x => u.journalled
    (eventRecord s (if x.restored then .channelRestored else .channelFailed) x.channel.val x.value)) (fun _ _ => rfl)
    ev.channelEvents s)
  repeat' split
  · exact start
  · exact start
  · exact (closeRecord_sq _ _ _ _).trans start
  · exact start

/-! ### The records of a restart -/

theorem SameRecording.readmitted {s u v : State} (h : SameRecording s u v) (automatic : Bool) (m : Fin 8) :
    SameRecording s (addRecord (readmittedRecord u m automatic) u)
      (v.journalled { Machine.eventRecord s .moduleReadmitted m.val 0 with automatic := automatic }) := by
  rw [readmittedRecord, newRecord_eq, h.eventRecord]
  exact h.journalled _

/-- A restart adds the records the statements list, before it enters SETTLE. -/
theorem performRestart_recorded (automatic : Bool) (tag : Nat) (s : State) :
    (performRestart automatic tag s).fj = (s.restartRecorded automatic tag).fj ∧
    (performRestart automatic tag s).cap = (s.restartRecorded automatic tag).cap := by
  have hl : s.mu.readmittedByRestart = (List.finRange 8).filter fun m =>
      s.mu.admission[m].gated && !s.mu.admission[m].hot && !s.mu.admission[m].sensor := by
    unfold MismatchUnit.readmittedByRestart
    congr 1
    funext m
    simp only [Admission.restarted, Bool.and_assoc]
    cases s.mu.admission[m].gated <;> simp
  have start : SameRecording s (clearCauses s) s := ⟨rfl, rfl, rfl, ⟨rfl, rfl⟩, rfl, rfl⟩
  have foldback : SameRecording s ((closeFoldback (clearCauses s)).setMu s.mu.restarted)
      (if s.mu.foldbackOpen then closeRecord .foldback 0 4095 s else s) := by
    unfold closeFoldback
    rw [show (clearCauses s).mu = s.mu from rfl]
    split
    · exact start.closeRecord _ _ _
    · exact start
  have prepared := SameRecording.foldl (fun _ _ m h => h.readmitted automatic m) s.mu.readmittedByRestart foldback
  have last := prepared.journalled (restartRecord (prepareRestart automatic s) s.sq.primary automatic tag)
  have e : restartRecord (prepareRestart automatic s) s.sq.primary automatic tag =
      { eventRecord s .restart 0 (causeCode s.sq.primary) with
        automatic := automatic, extra := BitVec.ofNat 32 tag } := by
    rw [restartRecord, newRecord_eq]
    exact congrArg (fun r : Record => { r with automatic := automatic, extra := BitVec.ofNat 32 tag })
      (prepared.eventRecord _ _ _)
  rw [e] at last
  unfold State.restartRecorded
  dsimp only
  rw [← hl]
  unfold performRestart
  rw [enterState_fj, enterState_cap, e]
  exact ⟨last.1, last.2.1⟩

/-- The records of a restart depend on what recording reads, the Mismatch Unit and the primary cause alone. -/
theorem restartRecorded_congr {s u v : State} (h : SameRecording s u v) (hm : u.mu = v.mu)
    (hp : u.sq.primary = v.sq.primary) (automatic : Bool) (tag : Nat) :
    (u.restartRecorded automatic tag).fj = (v.restartRecorded automatic tag).fj ∧
    (u.restartRecorded automatic tag).cap = (v.restartRecorded automatic tag).cap := by
  have hr (k : RecordKind) (c : Nat) (x : Int) : eventRecord u k c x = eventRecord v k c x :=
    newRecord_congr u v k c x (h.2.2.2.1.1.trans h.2.2.2.2.1.symm) (h.2.2.2.1.2.trans h.2.2.2.2.2.symm)
  have foldback : SameRecording s (if u.mu.foldbackOpen then closeRecord .foldback 0 4095 u else u)
      (if v.mu.foldbackOpen then closeRecord .foldback 0 4095 v else v) := by
    rw [hm]
    split
    · exact h.closeRecord _ _ _
    · exact h
  have key := (SameRecording.foldl (fun _ _ (m : Fin 8) k =>
    k.journalled { eventRecord v .moduleReadmitted m.val 0 with automatic := automatic })
    ((List.finRange 8).filter fun m => v.mu.admission[m].gated && !v.mu.admission[m].hot && !v.mu.admission[m].sensor)
    foldback).journalled
    { eventRecord v .restart 0 (causeCode v.sq.primary) with automatic := automatic, extra := BitVec.ofNat 32 tag }
  unfold State.restartRecorded
  simp only [hr, hm, hp] at key ⊢
  exact ⟨key.1, key.2.1⟩

/-! ### The DERATE closes of a table that takes effect -/

/-- A table that takes effect outside an evaluation adds the DERATE closes the statements list. -/
theorem takeEffectNow_recorded (t : EffectiveTable) (s : State) :
    (takeEffectNow t s).fj = (State.deratesClosed { s with lt := { s.lt with effective := t } } s.td.channels).fj ∧
    (takeEffectNow t s).cap = (State.deratesClosed { s with lt := { s.lt with effective := t } } s.td.channels).cap := by
  have start : SameRecording s ((setTable t s).setTd { (setTable t s).td with
      channels := Vector.ofFn fun c => refreshRecordNow t.channels[c] s.td.channels[c] })
      { s with lt := { s.lt with effective := t } } := ⟨by simp, by simp, rfl, by simp, rfl, rfl⟩
  have key := SameRecording.foldl (f := derateClose) (g := fun v k => closeRecord .derate (18 + k.val) 4096 v)
    (fun _ _ k h => h.closeRecord _ _ _) (derateClosesAt t s.td.channels) start
  unfold takeEffectNow State.deratesClosed
  exact ⟨key.1, key.2.1⟩

/-- The pending updates that take effect outside an evaluation add the DERATE closes the statements list. -/
theorem takePendingNow_recorded (s : State) (l : LimitTable)
    (h : l = { effective := s.lt.effective.applyAll s.lt.pendingSet, pendingSet := PendingUpdates.empty }) :
    (takePendingNow s).fj = (State.deratesClosed { s with lt := l } s.td.channels).fj ∧
    (takePendingNow s).cap = (State.deratesClosed { s with lt := l } s.td.channels).cap := by
  subst h
  exact takeEffectNow_recorded _ _

/-- The DERATE closes of a table depend on what recording reads alone. -/
theorem deratesClosed_congr (s u v : State) (before : Vector ChannelRecord 30) (h : SameRecording s u v) :
    (u.deratesClosed before).fj = (v.deratesClosed before).fj ∧
    (u.deratesClosed before).cap = (v.deratesClosed before).cap := by
  have key := SameRecording.foldl (f := fun v (k : Fin 11) => closeRecord .derate (18 + k.val) 4096 v)
    (g := fun v k => closeRecord .derate (18 + k.val) 4096 v) (fun _ _ k h => h.closeRecord _ _ _)
    ((List.finRange 11).filter fun k => before[thermalChannel k].present &&
      !v.lt.effective.channels[thermalChannel k].present && before[thermalChannel k].derateOpen) h
  unfold State.deratesClosed
  rw [h.2.2.1]
  exact ⟨key.1, key.2.1⟩

/-- The channel records a table leaves outside an evaluation are refreshed as the statements say. -/
theorem refreshRecordNow_refreshed (t : EffectiveTable) (before : Vector ChannelRecord 30) :
    RefreshedAtOnce t before (Vector.ofFn fun c => refreshRecordNow t.channels[c] before[c]) := by
  intro c
  simp only [Fin.getElem_fin, Vector.getElem_ofFn]
  unfold refreshRecordNow refreshRecord ChannelRecord.RefreshedFrom
  by_cases h1 : before[c.val].present = true <;> by_cases h2 : t.channels[c.val].present = true <;>
    simp [h1, h2, Config.fullFraction]

/-! ### The Mismatch Unit at a completion and at a restart -/

/-- A completion leaves the Mismatch Unit as the statements say. -/
theorem adoptMismatch_completed (ev : Evaluation) (s : State) :
    (adoptMismatch ev (s.sq.state == .run) s.mu).CompletedFrom ev (decide (s.sq.state = .run)) s.mu := by
  refine ⟨rfl, rfl, ?_, fun m => ?_⟩
  · simp only [adoptMismatch, mismatchDemand, raisedOutput]
    by_cases h1 : s.sq.state = .run <;> by_cases h2 : ev.outputTest = true <;> simp [h1, h2]
  · simp [adoptMismatch, newAdmission, newModuleCounter, countUp]

/-- The admission table of a restart, module by module. -/
theorem restarted_admission (u : MismatchUnit) : u.restarted.admission =
    u.admission.map fun a => { a with mismatch := false, gated := a.gated && (a.hot || a.sensor) } := by
  unfold MismatchUnit.restarted
  ext i hi
  simp [Admission.restarted]

/-! ### The start of an evaluation -/

/-- A record refreshed at an evaluation's start, from its entry. -/
theorem refreshRecord_refreshed (e : ChannelEntry) (r : ChannelRecord) : (refreshRecord e r).RefreshedFrom e r ∧
    (refreshRecord e r).fraction = r.fraction ∧ (refreshRecord e r).derateOpen = r.derateOpen := by
  unfold refreshRecord ChannelRecord.RefreshedFrom
  by_cases h : e.present = r.present
  · simp [h]
  · simp [h]
    exact fun x => absurd x.symm h

/-- The channel records of an evaluation's start are refreshed and decoded, with the events of that decoding. -/
theorem decodedChannels_decodedAtStart (n : Snapshot) (s : State) :
    DecodedAtStart (s.lt.effective.applyAll s.lt.pendingSet) n s.td.channels (decodedChannels n (takePendingAtStart s))
      (decodeEvents (takePendingAtStart s).td.channels (decodedChannels n (takePendingAtStart s))) := by
  refine ⟨(takePendingAtStart s).td.channels, fun c => ?_, ?_⟩
  · have h : (takePendingAtStart s).td.channels[c] =
        refreshRecord (s.lt.effective.applyAll s.lt.pendingSet).channels[c] s.td.channels[c] := by
      rw [takePendingAtStart_td]
      simp only [Fin.getElem_fin, Vector.getElem_ofFn]
    have hd : (decodedChannels n (takePendingAtStart s))[c] = decodeRecord c
        (takePendingAtStart s).lt.effective.channels[c] (takePendingAtStart s).lt.effective.general.fp n
        (takePendingAtStart s).td.channels[c] := by
      simp only [decodedChannels, Fin.getElem_fin, Vector.getElem_ofFn]
    rw [takePendingAtStart_lt] at hd
    obtain ⟨h1, h2, h3⟩ := refreshRecord_refreshed
      (s.lt.effective.applyAll s.lt.pendingSet).channels[c] s.td.channels[c]
    rw [← h] at h1 h2 h3
    exact ⟨h1, h2, h3, hd⟩
  · generalize (takePendingAtStart s).td.channels = a
    generalize decodedChannels n (takePendingAtStart s) = b
    rfl

/-- An evaluation holds the events of its decoding. -/
theorem computeEvaluation_events (n : Snapshot) (events : List ChannelEvent) (s : State) :
    (computeEvaluation n events s).channelEvents = events := rfl

/-- What an evaluation computes, from its table and its decoded channels. -/
theorem computeEvaluation_startedFrom (n : Snapshot) (events : List ChannelEvent) (s : State) :
    (computeEvaluation n events s).StartedFrom n s.lt.effective s.td.channels s.du s.cu.e := by
  unfold Evaluation.StartedFrom computeEvaluation
  simp only [Fin.getElem_fin, Vector.getElem_ofFn, newFraction, Config.fullFraction, implies_true, and_self]

/-- What an evaluation start leaves: the evaluation in flight, started from its snapshot, the table and the channels it
decoded, with the events of that decoding. -/
theorem startEvaluation_started (n : Snapshot) (s : State) :
    ∃ ev, (startEvaluation n s).cu.evaluation = some ev ∧
      ev.StartedFrom n (startEvaluation n s).lt.effective (startEvaluation n s).td.channels s.du s.cu.e ∧
      DecodedAtStart (startEvaluation n s).lt.effective n s.td.channels (startEvaluation n s).td.channels
        ev.channelEvents := by
  refine ⟨_, by rw [startEvaluation_cu], ?_, ?_⟩
  · rw [startEvaluation_td, startEvaluation_lt]
    generalize decodeEvents (takePendingAtStart s).td.channels (decodedChannels n (takePendingAtStart s)) = events
    generalize decodedChannels n (takePendingAtStart s) = channels
    have h := computeEvaluation_startedFrom n events
      ((takePendingAtStart s).setTd { (takePendingAtStart s).td with channels := channels })
    rw [State.setTd_lt, State.setTd_td, State.setTd_du, State.setTd_cu, takePendingAtStart_lt, takePendingAtStart_du,
      takePendingAtStart_cu] at h
    exact h
  · rw [startEvaluation_td, startEvaluation_lt, computeEvaluation_events]
    exact decodedChannels_decodedAtStart n s

/-- An evaluation start writes the channel records, the limit table, the evaluation in flight and, with WINDOW lowered, the
strike list, and nothing else. -/
theorem startEvaluation_frame (n : Snapshot) (s : State) :
    startEvaluation n s = { s with
      td := { s.td with channels := (startEvaluation n s).td.channels }
      lt := { effective := s.lt.effective.applyAll s.lt.pendingSet, pendingSet := PendingUpdates.empty }
      cu := { s.cu with evaluation := (startEvaluation n s).cu.evaluation }
      am := { s.am with
        strikes := (strikesKept s.msCounter s.lt.effective.general
          (s.lt.effective.applyAll s.lt.pendingSet).general s.am.strikes) } } := by
  apply State.eq_of_fields
  case h1 => rw [startEvaluation_td]
  case h2 => rw [startEvaluation_lt]
  case h6 => rw [startEvaluation_am]; rfl
  case h5 => rw [startEvaluation_cu]
  all_goals simp

/-- The records a completion adopts the fractions into. -/
theorem adoptFractions_adopted (ev : Evaluation) (channels : Vector ChannelRecord 30) :
    FractionsAdopted ev channels (adoptFractions ev channels) := by
  constructor
  · intro k
    simp only [adoptFractions, Fin.getElem_fin, Vector.getElem_ofFn, thermalChannel]
    rw [dif_pos (by omega)]
    simp [adoptFraction, Config.fullFraction]
  · intro c hc
    simp only [adoptFractions, Fin.getElem_fin, Vector.getElem_ofFn]
    rw [dif_neg (by omega)]

/-! ### The demands of a completion -/

/-- A completion's demands, each from its test, in their order. -/
theorem demandsOf_eq (ev : Evaluation) (s : State) : demandsOf ev s =
    (if sensorCondition s.td.channels then [TripKind.sensor] else []) ++
    (if ev.thermal then [TripKind.thermal] else []) ++ (if ev.cooling then [TripKind.cooling] else []) ++
    (if s.sq.state = .run ∧ ev.outputTest = true ∧ ev.vswrPersist ≤ s.mu.outputCounter + 1
      then [TripKind.mismatch] else []) ++
    (if ev.gateLimit < (adoptMismatch ev (s.sq.state == .run) s.mu).admission.toList.countP (fun a => a.gated)
      then [TripKind.modules] else []) := by
  have hm : mismatchDemand ev (s.sq.state == .run) s.mu.outputCounter =
      decide (s.sq.state = .run ∧ ev.outputTest = true ∧ ev.vswrPersist ≤ s.mu.outputCounter + 1) := by
    simp only [mismatchDemand, raisedOutput]
    by_cases hr : s.sq.state = .run <;> by_cases ho : ev.outputTest = true <;> simp [hr, ho]
  unfold demandsOf completionDemands MismatchUnit.gatedCount
  rw [hm]
  simp only [adoptResults_td, sensorCondition_adoptFractions, adoptResults_du, adoptDerating, adoptResults_mu,
    decide_eq_true_eq]
  rfl

/-- A completion's demands do not repeat, and are at most five. -/
theorem demandsOf_nodup (ev : Evaluation) (s : State) : (demandsOf ev s).Nodup ∧ (demandsOf ev s).length ≤ 5 := by
  rw [demandsOf_eq]
  constructor <;> (split <;> split <;> split <;> split <;> split) <;> decide

/-! ### The restart checks -/

theorem stuckCondition_iff (a : ArcMonitor) : a.stuckCondition = false ↔ ∀ i : Fin 3, a.inputs[i].stuck = false := by
  simp [ArcMonitor.stuckCondition, Fin.forall_fin_succ, and_assoc]

/-- No restart check fails exactly where the statements say so. -/
theorem restartCheck_none (s : State) : restartCheck s = none ↔ s.restartable := by
  unfold restartCheck State.restartable State.interlockCondition MismatchUnit.residualCount
  rw [← stuckCondition_iff]
  repeat' split
  all_goals simp_all

/-- The auto-restart check passes exactly where the statements say so. -/
theorem autoRestart_check (s : State) :
    (s.sq.state = .tripped ∧ autoCauses s = true ∧ restartCheck s = none) ↔ s.autoRestarts := by
  have hc : autoCauses s = true ↔ ∀ k, s.sq.primary = some k ∨ k ∈ s.sq.secondary →
      (k = .thermal ∧ s.lt.effective.general.autoThermal = true) ∨
      (k = .cooling ∧ s.lt.effective.general.autoCooling = true) ∨
      (k = .interlock ∧ s.lt.effective.general.autoInterlock = true) := by
    simp only [autoCauses, List.all_eq_true, List.mem_append, Option.mem_toList]
    refine forall_congr' fun k => imp_congr_right fun _ => ?_
    cases k <;> simp [autoAllowed]
  rw [restartCheck_none, hc]
  rfl

/-- The auto-restart check and what follows it. -/
theorem autoRestart_eq (s : State) :
    (s.autoRestarts → autoRestart s = performRestart true 0 s) ∧ (¬ s.autoRestarts → autoRestart s = s) := by
  unfold autoRestart
  exact ⟨fun h => if_pos ((autoRestart_check s).mpr h), fun h => if_neg fun x => h ((autoRestart_check s).mp x)⟩

/-! ### What a completion hands to the pending snapshot -/

/-- No strike is lost to an automatic restart: it follows no ARC_LOCKOUT. -/
theorem settleCompletion_am (ev : Evaluation) (s : State) : (settleCompletion ev s).am = s.am := by
  unfold settleCompletion
  generalize hu : tripDemands (demandsOf ev s) (journalCompletion ev s) = u
  have ha : u.am = s.am := by subst hu; simp
  by_cases h : u.autoRestarts
  · rw [(autoRestart_eq u).1 h, performRestart_am]
    have hk : u.sq.holds .arcLockout = false := by
      have := h.2.1 .arcLockout
      simp only [reduceCtorEq, false_and, or_self, imp_false, not_or] at this
      simp [Sequencer.holds, this]
    rw [hk, ← ha]; rfl
  · rw [(autoRestart_eq u).2 h, ha]

/-- A completion hands the state it settled, its frame record appended and its reads released, to the pending snapshot. -/
theorem completeEvaluation_released (ev : Evaluation) (s : State) :
    ∃ u : State, completeEvaluation ev s = startPending u ∧
      u.td = { s.td with channels := adoptFractions ev s.td.channels } ∧ u.lt = s.lt ∧ u.du = adoptDerating ev ∧
      u.cu.evaluation = none ∧ u.am = s.am ∧ u.bp = { s.bp with heldReads := [] } ∧ u.msCounter = s.msCounter ∧
      u.mem = s.mem ∧ u.pins = s.pins ∧ u.pending = s.pending ∧
      u.replies = s.replies ++ s.bp.heldReads.map (fun h =>
        { master := .dl, transaction := h.transaction, data := substitutedWord h.word u }) := by
  refine ⟨_, rfl, ?_, ?_, ?_, ?_, ?_, ?_, ?_, ?_, ?_, ?_, ?_⟩
  · simp
  · simp
  · simp
  · have := (settleCompletion_ceilings s ev).2.2.2
    simp [this, adoptCeilings]
  · simp [settleCompletion_am]
  · simp
  · simp
  · simp
  · simp
  · simp
  · rw [releaseReads_replies]
    have hsub : ∀ (w : Setpoint) (v : State), substitutedWord w (releaseReads v) = substitutedWord w v := by
      intro w v
      have h : ∀ o, regionAddress (releaseReads v) o = regionAddress v o := fun o => by simp [regionAddress, regionNumber]
      cases w <;> simp [substitutedWord, h]
    simp only [hsub, appendFrame_replies, appendFrame_bp, settleCompletion_replies, settleCompletion_bp]

/-- The next evaluation changes no word a read is answered with. -/
theorem startPending_substitutedWord (w : Setpoint) (u : State) : substitutedWord w (startPending u) = substitutedWord w u := by
  obtain ⟨-, -, h3, -, h5⟩ := startPending_ceilings u
  have h : ∀ o, regionAddress (startPending u) o = regionAddress u o := fun o => by simp [regionAddress, regionNumber]
  cases w <;> simp [substitutedWord, h, h3, h5]

/-! ### The pattern of the capture -/

/-- The journal's notice leaves the capture's pattern. -/
theorem notify_pattern (c : CaptureUnit) (mask : Word) (k : RecordKind) : (c.notify mask k).pattern = c.pattern := by
  unfold CaptureUnit.notify CaptureUnit.takeTrigger
  repeat' split
  all_goals rfl

theorem addRecord_pattern (r : Record) (s : State) : (addRecord r s).cap.pattern = s.cap.pattern :=
  notify_pattern _ _ _

theorem closeRecord_pattern (k : RecordKind) (c : Nat) (v : Int) (s : State) :
    (closeRecord k c v s).cap.pattern = s.cap.pattern := by
  unfold closeRecord
  dsimp only
  repeat' split
  · exact addRecord_pattern _ _
  · rfl
  · exact addRecord_pattern _ _

/-- The records of a completion leave the capture's pattern. -/
theorem journalCompletion_pattern (ev : Evaluation) (s : State) :
    (journalCompletion ev s).cap.pattern = s.cap.pattern := by
  have keep {α : Type} (f : State → α → State) (h : ∀ u a, (f u a).cap.pattern = u.cap.pattern) (l : List α) (u : State) :
      (l.foldl f u).cap.pattern = u.cap.pattern := foldl_keeps f (fun u => u.cap.pattern) h l u
  have foldback (b : Bool) (v : Nat) (u : State) : (journalFoldback b v u).cap.pattern = u.cap.pattern := by
    unfold journalFoldback
    repeat' split
    all_goals first | rfl | exact addRecord_pattern _ _ | exact closeRecord_pattern _ _ _ _
  have derate (channels : Vector ChannelRecord 30) (u : State) (k : Fin 11) :
      (journalDerate ev channels u k).cap.pattern = u.cap.pattern := by
    unfold journalDerate
    dsimp only
    repeat' split
    all_goals first | rfl | exact addRecord_pattern _ _ | exact closeRecord_pattern _ _ _ _
  unfold journalCompletion journalEvaluation
  dsimp only
  rw [keep (journalGated _) fun _ _ => addRecord_pattern _ _, foldback, keep (journalDerate _ _) fun _ _ => derate _ _ _,
    keep journalChannel fun _ _ => addRecord_pattern _ _]
  rfl

/-- A restart leaves the capture's pattern. -/
theorem performRestart_pattern (automatic : Bool) (tag : Nat) (s : State) :
    (performRestart automatic tag s).cap.pattern = s.cap.pattern := by
  rw [(performRestart_recorded automatic tag s).2]
  refine (addRecord_pattern _ _).trans ((foldl_keeps _ (fun u => u.cap.pattern) ?_ _ _).trans ?_)
  · exact fun _ _ => addRecord_pattern _ _
  · split
    · exact closeRecord_pattern _ _ _ _
    · rfl

end Sys2Proof.Machine
end

