-- ==== Sys2Proof/WellFormed.lean ====
section
/-! DEFINITION. Which operands a row of the table admits. An operand outside these is still given the effect the Bus
Passage gives that access (log entry 13). -/

namespace Sys2Proof

/-- The masters whose limit writes are interpreted (R131). -/
def Master.writesLimits : Master → Bool
  | .cp => true
  | .ts => false
  | .dl => false
  | .sp => true

/-- A data slot is slot 1 to 30 (01, section 1.1). -/
def isDataSlot (slot : Fin 32) : Bool := slot != 0 && slot != 31

/-- The operands are among those the command's row admits: a data write names a data slot, an interpreted limit write
comes from CP or SP, and HEAD_WINDOW_WORD_READ reads words 1 to 3. -/
def Instr.wellFormed : Instr → Bool
  | .dataSlotWrite slot _ => isDataSlot slot
  | .limitWordAWrite m _ _ => m.writesLimits
  | .limitWordBWrite m _ _ => m.writesLimits
  | .limitOneWordWrite m _ _ => m.writesLimits
  | .headWindowWordRead _ w _ => w != 0
  | .frameHeaderWrite _ | .frameEnd _ | .frameTimeoutExpiry | .evaluationCompletion => true
  | .dlExciterDriveRead _ | .dlTrimRead _ _ | .dlGateRead _ _ | .holdOffExpiry => true
  | .arcLineAssert _ | .arcLineDeassert _ | .arcQualifyExpiry _ | .arcReleaseExpiry _ => true
  | .stuckTimerExpiry _ | .strikeEntryAgeing | .interlockOpen | .interlockClose => true
  | .settleExpiry | .quenchExpiry | .dischargeExpiry => true
  | .restart _ _ _ | .stop _ _ _ | .readmit _ _ _ | .strikeClear _ _ _ => true
  | .journalClear _ _ _ | .ownershipClear _ _ _ | .captureArm _ _ _ | .captureStop _ _ _ => true
  | .ownershipWordRead _ _ | .ownershipWordWrite _ _ _ | .headWindowWord0Read _ _ => true
  | .cpS0Read _ | .captureStartAliasRead _ _ | .captureContinueAliasRead _ _ => true
  | .absorbedWrite _ _ _ _ | .resetAssert _ | .resetRelease _ | .millisecondCounterTick => true

end Sys2Proof
end

