-- ==== Sys2Proof/Tests/Slice0.lean ====
section
/-! SUPPORT. Tests: ill-formed terms refused, the worked examples of the spec, and for every statement with hypotheses a
state and operands that meet them. -/

namespace Sys2Proof.Tests

open Sys2Proof Sys2Proof.Machine

/-! ### Well-formedness -/

theorem test_slot_0_is_no_data_slot : (Instr.dataSlotWrite 0 0).wellFormed = false := by decide
theorem test_slot_31_is_no_data_slot : (Instr.dataSlotWrite 31 0).wellFormed = false := by decide
theorem test_slots_1_and_30_are_data_slots :
    (Instr.dataSlotWrite 1 0).wellFormed = true ∧ (Instr.dataSlotWrite 30 0).wellFormed = true := by decide
theorem test_scanner_stages_no_word_A : (Instr.limitWordAWrite .ts (.channel 0) 0).wellFormed = false := by decide
theorem test_drive_link_writes_no_word_B : (Instr.limitWordBWrite .dl (.general 0) 0).wellFormed = false := by decide
theorem test_scanner_writes_no_one_word_entry : (Instr.limitOneWordWrite .ts (.fine 0) 0).wellFormed = false := by decide
theorem test_word_0_is_read_by_its_own_row : (Instr.headWindowWordRead .cp 0 0).wellFormed = false := by decide
theorem test_service_port_writes_limits : (Instr.limitWordAWrite .sp (.channel 29) 0).wellFormed = true := by decide

/-! ### States -/

/-- The state a next outcome answers, or the state given. -/
def after (o : Host.Outcome State Fault Refusal) (s : State) : State :=
  match o with
  | .next t => t
  | .fault _ => s
  | .refused _ => s

/-- The state after commands taken in turn. -/
def run : List Instr → State → State
  | [], s => s
  | c :: cs, s => run cs (after (exec c s) s)

/-- A state in a sequencer state, as reset leaves the rest. -/
def stateIn (st : SeqState) : State := State.reset.setSq { Sequencer.reset with state := st }

/-- RUN with drive: E at 100 under ceilings of 4095. -/
def driving : State := (stateIn .run).setCu { CeilingUnit.reset with e := 100 }

/-- DISCHARGE toward OFF and toward TRIPPED, and TRIPPED, each with its timer and holder. -/
def stopping : State :=
  State.reset.setSq { Sequencer.reset with state := .discharge, destination := .off, dischargeTimer := some 0 }

def dropping : State :=
  State.reset.setSq { Sequencer.reset with
    state := .discharge, destination := .tripped, dischargeTimer := some 0, primary := some .cooling }

def tripped : State := State.reset.setSq { Sequencer.reset with state := .tripped, primary := some .cooling }

/-- Reset asserted. -/
def inReset : State := State.reset.setPins { State.reset.pins with resetAsserted := true }

/-- An open frame, numbered 41. -/
def frameOpen : State :=
  State.reset.setTd { TelemetryDecoder.reset with frameOpen := true, frameSeen := true, frameSeq := 41, lastSeq := 41 }

/-- An empty snapshot. -/
def emptySnapshot : Snapshot := { seq := 42, words := Vector.replicate 30 0, marks := Vector.replicate 30 false }

/-- An evaluation that holds V, with every fraction full. -/
def calmEvaluation : Evaluation where
  snapshot := emptySnapshot
  channelEvents := []
  fractions := Vector.replicate 11 4096
  hot := Vector.replicate 8 false
  thermal := false
  flowCounter := 0
  cooling := false
  vOutcome := .hold
  outputTest := false
  moduleTests := Vector.replicate 8 false
  sensorCauses := Vector.replicate 8 false
  rise := 16
  vswrPersist := 3
  modPersist := 5
  gateLimit := 2

/-- A state with that evaluation in flight. -/
def evaluating (s : State) : State := s.setCu { s.cu with evaluation := some calmEvaluation }

/-- Every channel present and not required, so that no sensor condition stands. -/
def fitted (s : State) : State :=
  s.setTd { s.td with
    telemetryLost := false
    channels := Vector.replicate 30 { ChannelRecord.reset with present := true, required := false } }

/-- One record of a kind, with a number. -/
def recordOf (kind : RecordKind) (seq : BitVec 16) : Record := { eventRecord State.reset kind 0 0 with seq := seq }

/-- A state with a journal of one record. -/
def holding (kind : RecordKind) : State :=
  State.reset.setFj { FaultJournal.reset with records := [recordOf kind 0], nextSeq := 1 }

/-! ### The worked examples -/

/-- The entry of HSK3 in Section 1.8.1. -/
def hsk3Entry : ChannelEntry where
  slot := 12
  offset := 16
  width := 12
  signed := true
  present := true
  required := true
  scale := 5
  shift := 1
  trip := 950

/-- A snapshot with a word in a slot. -/
def snapshotOf (k : Fin 30) (w : Word) : Snapshot where
  seq := 200
  words := Vector.ofFn fun i => if i = k then w else 0
  marks := Vector.ofFn fun i => decide (i = k)

/-- A present, signed channel. -/
def signedRecord : ChannelRecord := { ChannelRecord.reset with present := true, signed := true }

theorem test_hsk3_decodes_to_857 :
    (decodeRecord 21 hsk3Entry 3 (snapshotOf 11 0x0157014A) signedRecord).value = 857 := by decide
theorem test_hsk2_decodes_to_825 :
    (decodeRecord 20 { hsk3Entry with offset := 0 } 3 (snapshotOf 11 0x0157014A) signedRecord).value = 825 := by decide

/-- The entry of CLIN in Section 1.8.1. -/
def clinEntry : ChannelEntry := { hsk3Entry with slot := 4, offset := 0, scale := 1, shift := 1 }

theorem test_clin_decodes_to_minus_4 :
    (decodeRecord 26 clinEntry 3 (snapshotOf 3 0x00000FF9) signedRecord).value = -4 := by decide
theorem test_clin_unsigned_is_clamped_to_1500 :
    (decodeRecord 26 clinEntry 3 (snapshotOf 3 0x00000FF9) { signedRecord with signed := false }).value = 1500 := by
  decide

/-- The MODULE curve of Section 2.5.1, with fine blocks 2 and 3. -/
def warmingTable : EffectiveTable := { EffectiveTable.reset with
  modulesCurve := Vector.ofFn fun i : Fin 16 =>
    if i.val < 4 then { refined := false, value := 4096, block := 0 }
    else if i.val = 4 then { refined := true, value := 0, block := 2 }
    else if i.val = 5 then { refined := true, value := 0, block := 3 }
    else if i.val = 6 then { refined := false, value := 1024, block := 0 }
    else { refined := false, value := 0, block := 0 }
  fine := Vector.ofFn fun f : Fin 64 =>
    if f = 16 then 3891 else if f = 19 then 3686 else if f = 21 then 3482 else if f = 24 then 3174
    else if f = 29 then 2253 else 4096 }

theorem test_heatsinks_warming :
    lookup warmingTable .modules 815 = 4096 ∧ lookup warmingTable .modules 825 = 3891 ∧
    lookup warmingTable .modules 857 = 3686 ∧ lookup warmingTable .modules 955 = 2253 ∧
    lookup warmingTable .modules 905 = 3174 ∧ lookup warmingTable .modules 872 = 3482 := by decide

theorem test_rhythm_lost_by_one_frame : sequenceGap 43 41 = 1 ∧ sequenceGap 44 43 = 0 ∧ sequenceGap 0 255 = 0 := by decide

/-- Section 1.4.1 from frame 43 to the first end: one abandoned frame and one TELEMETRY_GAP record of value 1. -/
theorem test_scanner_losing_its_rhythm :
    let s := run [.frameHeaderWrite 43, .dataSlotWrite 3 7, .frameHeaderWrite 44]
      (State.reset.setTd { TelemetryDecoder.reset with frameSeen := true, lastSeq := 41 })
    s.td.abandoned = 1 ∧ s.td.lastSeq = 44 ∧ s.fj.records.map (fun r => (r.kind, r.value)) = [(.telemetryGap, 1)] := by
  decide +kernel

/-- Section 7.5.1: the careless entries as they take effect. -/
theorem test_careless_entry_is_clamped :
    clampChannel (pack [(5, 0, 5), (20, 8, 5), (20, 16, 5), (1, 24, 1), (1, 25, 1), (1, 26, 1)])
      (pack [(0, 0, 8), (2, 8, 4), (600, 16, 16)]) =
      { slot := 5, offset := 20, width := 12, signed := true, present := true, required := true, scale := 1, shift := 2,
        trip := 600 } ∧
    (clampGeneral 3 0 40 General.reset).rise = 1 ∧ (clampGeneral 3 0 40 General.reset).holdMax = 40 ∧
    (clampCoarse 5000).value = 4096 := by decide

/-- The state of Section 11.3.1. -/
def afterTheStop : State :=
  { State.reset with
    sq := { Sequencer.reset with state := .tripped, primary := some .cooling, secondary := [.thermal, .interlock] }
    fj := { FaultJournal.reset with records := [recordOf .stop 0, recordOf (.trip .cooling) 1], attention := true }
    bp := { BusPassage.reset with
      lastRequest := some { request := .restart, master := .cp, result := .refusedCause .interlock } } }

theorem test_status_words_after_the_stop :
    statusWord afterTheStop 0 = 0x225 ∧ statusWord afterTheStop 1 = 0x200912 ∧ statusWord afterTheStop 4 = 0x9201 ∧
    statusWord (after (exec (.cpS0Read 0) afterTheStop) afterTheStop) 0 = 0x205 := by decide +kernel

/-- Section 9.8.1: the sizes for a pattern of three channels. -/
theorem test_capture_sizes_for_three_channels :
    let c := CaptureUnit.arm 0x10030000 3 .single
    c.recordSize = 3 ∧ c.capacity = 682 ∧ c.postCount = 3 := by decide

/-- Section 5.8.1: the first strike mutes, and the quench expires into RUN with E at 0. -/
theorem test_first_strike_and_quench :
    let s := run [.arcLineAssert 2, .arcQualifyExpiry 2, .arcLineDeassert 2, .arcReleaseExpiry 2]
      { driving with msCounter := 1000000 }
    let u := run [.quenchExpiry] { s with msCounter := 1000100 }
    s.sq.state = .mute ∧ s.sq.quenchTimer = some 1000100 ∧ s.fj.records.map (fun r => (r.kind, r.source, r.value)) =
      [(.arc, 2, 1)] ∧ u.sq.state = .run ∧ u.cu.e = 0 ∧ statusWord u 15 = 1000000 := by decide +kernel

/-- Section 6.8.1: a stop turned into a trip without restarting the discharge interval. -/
theorem test_stop_interrupted_by_a_trip :
    let s := run [.stop .cp 0xF 0, .interlockOpen] { driving with msCounter := 2400000 }
    let u := run [.stop .sp 0xF 0, .dischargeExpiry] { s with msCounter := 2400500 }
    s.sq.dischargeTimer = some 2400500 ∧ s.sq.destination = .tripped ∧ s.sq.primary = some .interlock ∧
    u.sq.state = .tripped ∧ u.muteLine = true ∧ u.supplyEnable = false ∧ statusWord u 4 = 0x132 := by decide +kernel

/-- Section 7.3.1: an interleaved word B takes the effective word A, and each master keeps its own holder. -/
theorem test_two_masters_staging :
    let s := run [.limitWordAWrite .cp (.channel 17) 0x0200000A, .limitWordAWrite .sp (.general 3) 40,
      .limitWordBWrite .cp (.general 0) 600, .limitWordBWrite .cp (.channel 17) 1] (fitted State.reset)
    s.bp.stagingCp = none ∧ s.bp.stagingSp = some (.general 3, 40) ∧ s.lt.pendingSet.two (.general 0) = some (200, 600) ∧
    s.lt.pendingSet.two (.channel 17) = some (0x0200000A, 1) ∧ s.lt.effective.general.pfmin = 500 := by decide +kernel

/-- Section 10.10: misuses count in turn, and READMIT of module 9 is refused for its argument. -/
theorem test_confused_maintenance_session :
    let s := run [.absorbedWrite .sp 0x433 0xF 0, .absorbedWrite .sp 0x025 0xF 0, .absorbedWrite .sp 0x1C6 0x3 0,
      .absorbedWrite .sp 0x1C6 0xF 0, .readmit .sp 0x3 9, .readmit .sp 0xF 9, .ownershipWordWrite .sp 0xF 0,
      .ownershipWordRead .sp 0, .ownershipClear .sp 0xF 0, .restart .dl 0xF 0] State.reset
    s.bp.misuseCount = 6 ∧ s.bp.lastMisuse = 0x400 ∧ s.bp.stagingSp = some (.general 3, 0) ∧ s.fj.owner = .free ∧
    s.bp.lastRequest = some { request := .restart, master := .dl, result := .refusedMaster } := by decide +kernel

/-! ### Every statement's hypotheses are met somewhere -/

theorem witness_StepTakesTheFrontCommand :
    { State.reset with pending := [.settleExpiry] }.pending = .settleExpiry :: [] ∧ State.reset.pending = [] := by decide

theorem witness_StepsKeepMemoryCanonical :
    ({ State.reset with mem := [(4, 1)] } : State).mem.wf = true ∧
    step { State.reset with mem := [(4, 1)] } = .next { State.reset with mem := [(4, 1)] } := ⟨by decide, rfl⟩

theorem witness_StepsKeepTheDriveBounded : DriveBounded driving ∧ step driving = .next driving :=
  ⟨by unfold DriveBounded; decide, rfl⟩

theorem witness_StepsKeepTheSequencerSound :
    HolderSound dropping.sq ∧ TimersSound dropping.sq ∧ step dropping = .next dropping :=
  ⟨by unfold HolderSound; decide, by unfold TimersSound; decide, rfl⟩

theorem witness_StepsKeepTheJournalInOrder : JournalSound (holding .arc).fj ∧ step (holding .arc) = .next (holding .arc) :=
  ⟨by unfold JournalSound; decide, rfl⟩

/-- A capture with one record of one word in a ring of 2048. -/
def captured (st : CaptureState) : State := State.reset.setCap { CaptureUnit.reset with
  state := st
  ring := [{ seq := 1, seqState := .run, mark := false, e := 0, values := [] }]
  preTrigger := if st = .armed then 0 else 1 }

theorem witness_StepsKeepTheCaptureSound :
    CaptureSound (captured .frozen).cap ∧ step (captured .frozen) = .next (captured .frozen) :=
  ⟨by unfold CaptureSound; decide +kernel, rfl⟩

/-- An evaluation in flight with one read held. -/
def waiting : State := (evaluating driving).setBp { BusPassage.reset with
  heldReads := [{ word := .exciter, transaction := 3, holdMax := 40 }] }

theorem witness_StepsKeepWaitersBehindAnEvaluation : WaitingSound waiting ∧ step waiting = .next waiting :=
  ⟨⟨by decide, fun h => absurd h (by decide)⟩, rfl⟩

/-- One input in a filter state, its line as the filter asks. -/
def arcInput (f : FilterState) (line : Bool) (s : State) : State :=
  (s.setAm { s.am with inputs := s.am.inputs.set 0 { filter := f, stuckTimer := some 0, stuck := false } }).setPins
    { s.pins with arcLines := s.pins.arcLines.set 0 line }

theorem witness_StepsKeepTheArcMonitorSound :
    ArcInputsSound (arcInput .held true driving) ∧ StrikesSound (arcInput .held true driving) ∧
    HolderSound (arcInput .held true driving).sq ∧ step (arcInput .held true driving) = .next (arcInput .held true driving) :=
  ⟨by unfold ArcInputsSound; decide, by unfold StrikesSound; decide, by unfold HolderSound; decide, rfl⟩

theorem witness_limits_in_range : EffectiveTable.inRange warmingTable := by
  unfold EffectiveTable.inRange ChannelEntry.inRange General.inRange
  decide +kernel

theorem witness_StepsKeepLimitsAndReadingsInRange :
    ChannelsSound (fitted driving).td.channels ∧ MismatchSound driving.mu ∧
    (driving.setLt { LimitTable.reset with effective := warmingTable }).lt.effective = warmingTable :=
  ⟨by unfold ChannelsSound; decide +kernel, by unfold MismatchSound; decide, rfl⟩

theorem witness_HeaderOpensAFrame :
    State.reset.operating ∧ State.reset.mem.wf = true ∧ State.reset.td.frameSeen = false ∧
    frameOpen.operating ∧ frameOpen.mem.wf = true ∧ frameOpen.td.frameSeen = true ∧
    (42 : Word).setWidth 8 - frameOpen.td.lastSeq - 1 = 0 ∧ (41 : Word).setWidth 8 - frameOpen.td.lastSeq - 1 ≠ 0 :=
  ⟨rfl, rfl, rfl, rfl, rfl, rfl, by decide, by decide⟩

theorem witness_DataWritesLatchOrAreOrphans :
    frameOpen.operating ∧ frameOpen.mem.wf = true ∧ frameOpen.td.frameOpen = true ∧
    State.reset.operating ∧ State.reset.mem.wf = true ∧ State.reset.td.frameOpen = false := ⟨rfl, rfl, rfl, rfl, rfl, rfl⟩

theorem witness_FrameEndBehindAnEvaluationIsPending :
    let s := evaluating frameOpen
    let u := s.setTd { s.td with pendingSnapshot := some emptySnapshot }
    s.operating ∧ s.mem.wf = true ∧ s.td.frameOpen = true ∧ s.cu.evaluation.isSome = true ∧ s.td.pendingSnapshot = none ∧
    u.operating ∧ u.mem.wf = true ∧ u.td.frameOpen = true ∧ u.cu.evaluation.isSome = true ∧
    u.td.pendingSnapshot.isSome = true := ⟨rfl, rfl, rfl, rfl, rfl, rfl, rfl, rfl, rfl, rfl⟩

theorem witness_FrameEndStartsAnEvaluation :
    frameOpen.operating ∧ frameOpen.mem.wf = true ∧ frameOpen.td.frameOpen = true ∧ frameOpen.cu.evaluation = none :=
  ⟨rfl, rfl, rfl, rfl⟩

/-- A frame timer that has run for FRAME_TIMEOUT exactly. -/
def overdue (s : State) : State := { s.setTd { s.td with frameTimer := some 0 } with msCounter := 10 }

/-- Every channel present and derated, whatever the table says of it. -/
def derated (s : State) : State := s.setTd { s.td with
  channels := Vector.replicate 30 { ChannelRecord.reset with present := true, fraction := 2048, derateOpen := true } }

theorem witness_FrameTimeoutLosesTelemetry :
    (overdue driving).td.frameTimer = some 0 ∧
    (overdue driving).lt.effective.general.frameTimeout ≤ ((overdue driving).msCounter - 0).toNat ∧
    (overdue driving).sq.state.live ∧ ¬ (overdue State.reset).sq.state.live ∧
    ((overdue (derated driving)).td.channels[thermalChannel 0].present = true ∧
      (overdue (derated driving)).td.channels[thermalChannel 0].derateOpen = true ∧
      ((overdue (derated driving)).lt.effective.applyAll (overdue (derated driving)).lt.pendingSet).channels[
        thermalChannel 0].present = false) :=
  ⟨rfl, by decide, trivial, id, rfl, rfl, by decide +kernel⟩

/-- The trip comes before the DERATE closes of the eleven channels the empty table makes absent. -/
theorem test_timeout_trips_and_closes_the_derates :
    (run [.frameTimeoutExpiry] (overdue (derated driving))).fj.records.map (fun r => (r.kind, r.source)) =
      (.trip .telemetryLoss, 0) :: (List.range 11).map fun k => (.derate, 18 + k) := by decide +kernel

/-- The premises of the decoding statement that do not name a clause. -/
def decodes (c : Fin 30) (e : ChannelEntry) (n : Snapshot) (r : ChannelRecord) (k : Fin 30) (x lo hi : Int) : Prop :=
  r.present = true ∧ e.slot = k.val + 1 ∧
  (lo, hi) = (if c.val < 16 then (0, 4000) else if c.val < 18 then (0, 30000)
    else if c.val < 29 then (-400, 1500) else ((0, 2000) : Int × Int)) ∧
  2 ^ e.shift * x ≤ rawReading e r.signed n.words[k] * e.scale ∧
  rawReading e r.signed n.words[k] * e.scale < 2 ^ e.shift * (x + 1)

theorem witness_DecodingGivesTheReading :
    decodes 26 clinEntry emptySnapshot signedRecord 3 0 (-400) 1500 ∧ emptySnapshot.marks[(3 : Fin 30)] = false ∧
    decodes 26 clinEntry (snapshotOf 3 0xBB8) { signedRecord with signed := false } 3 1500 (-400) 1500 ∧
    (snapshotOf 3 0xBB8).marks[(3 : Fin 30)] = true ∧
    decodes 26 clinEntry (snapshotOf 3 0xCE0) signedRecord 3 (-400) (-400) 1500 ∧
    decodes 26 clinEntry (snapshotOf 3 0xCDE) signedRecord 3 (-401) (-400) 1500 ∧
    decodes 26 clinEntry (snapshotOf 3 0xBBA) { signedRecord with signed := false } 3 1501 (-400) 1500 ∧
    ChannelRecord.reset.present = false := by
  unfold decodes rawReading
  decide

theorem witness_LookupTakesTheStepOfTheCurve :
    (499 - warmingTable.base .modules < 0) ∧
    (0 ≤ 500 - warmingTable.base .modules ∧ 500 - warmingTable.base .modules < 1280) ∧
    (0 ≤ 1779 - warmingTable.base .modules ∧ 1779 - warmingTable.base .modules < 1280 ∧
      (((15 : Fin 16).val : Nat) : Int) = (1779 - warmingTable.base .modules) / 80 ∧
      (((7 : Fin 8).val : Nat) : Int) = (1779 - warmingTable.base .modules - 80 * 15) / 10) ∧
    1280 ≤ 1780 - warmingTable.base .modules := by decide

/-- Channel records usable throughout, with one value everywhere. -/
def usableAt (v : Int) : Vector ChannelRecord 30 := Vector.replicate 30 { ChannelRecord.reset with present := true, value := v }

theorem witness_HeatAndFlowConditionsFollowTheReadings :
    (usableAt 299)[flow].usable = true ∧ (usableAt 299)[flow].value < EffectiveTable.reset.general.flowMin ∧
    (usableAt 300)[flow].usable = true ∧ (EffectiveTable.reset.general.flowMin : Int) ≤ (usableAt 300)[flow].value ∧
    TelemetryDecoder.reset.channels[flow].usable = false := by decide

theorem witness_ReflectedPowerDecidesOutcomesAndTests :
    (usableAt 201)[outf].usable = true ∧ (usableAt 201)[outr].usable = true ∧
    (EffectiveTable.reset.general.prlim : Int) < (usableAt 201)[outr].value ∧
    ((EffectiveTable.reset.general.prlim - EffectiveTable.reset.general.prlim / 8 : Nat) : Int) <
      (usableAt 200)[outr].value ∧
    (usableAt 200)[outr].value ≤ EffectiveTable.reset.general.prlim ∧
    (usableAt 175)[outr].value ≤
      ((EffectiveTable.reset.general.prlim - EffectiveTable.reset.general.prlim / 8 : Nat) : Int) ∧
    TelemetryDecoder.reset.channels[outr].usable = false := by decide

theorem witness_completions :
    (evaluating driving).cu.evaluation = some calmEvaluation ∧ (evaluating driving).sq.state = .run ∧
    (evaluating driving).sq.state ≠ .tripped ∧ (evaluating State.reset).cu.evaluation = some calmEvaluation ∧
    (evaluating State.reset).sq.state = .off := ⟨rfl, rfl, by decide, rfl, rfl⟩

theorem witness_CompletionEntersItsDemandsInOrder :
    (evaluating driving).sq.state.live ∧ sensorCondition (evaluating driving).td.channels = true ∧
    sensorCondition (evaluating (fitted driving)).td.channels = false ∧ (evaluating stopping).sq.state = .discharge ∧
    (evaluating stopping).sq.destination ≠ .tripped ∧ (evaluating dropping).sq.state = .discharge ∧
    (evaluating dropping).sq.destination = .tripped ∧ (evaluating tripped).sq.state = .tripped ∧
    (evaluating State.reset).sq.state = .off :=
  ⟨trivial, by decide, by decide, rfl, by decide, rfl, rfl, rfl, rfl⟩

/-- A SENSOR demand of a completion turns a stop into a trip, and joins the causes of a trip that stands. -/
theorem test_completion_demands_outside_run :
    let s := run [.evaluationCompletion] (evaluating stopping)
    let u := run [.evaluationCompletion] (evaluating tripped)
    s.sq.primary = some .sensor ∧ s.sq.destination = .tripped ∧
    s.fj.records.map (fun r => (r.kind, r.seqState)) = [(.trip .sensor, .discharge)] ∧
    u.sq.secondary = [.sensor] ∧ u.fj.records = [] := by decide +kernel

theorem witness_CompletionRecordsComeInOrder :
    (evaluating driving).cu.evaluation = some calmEvaluation ∧ (evaluating driving).fj.records = [] ∧
    calmEvaluation.channelEvents.length ≤ 30 ∧ (evaluating driving).sq.state.live ∧
    (evaluating driving).mu.foldbackOpen = false ∧
    (∀ k : Fin 11, (evaluating driving).td.channels[thermalChannel k].derateOpen = false) ∧
    (evaluating State.reset).sq.state = .off ∧
    (after (exec .evaluationCompletion (evaluating driving)) driving).sq.state = .discharge ∧
    (after (exec .evaluationCompletion (evaluating (fitted driving))) driving).sq.state = .run :=
  ⟨rfl, rfl, by decide, trivial, rfl, by decide, rfl, by decide +kernel, by decide +kernel⟩

/-- A completion with full fractions closes the DERATE records that stand open. -/
theorem test_completion_closes_derates :
    (run [.evaluationCompletion] (evaluating (derated State.reset))).fj.records.map
      (fun r => (r.kind, r.source, r.value, r.closedFlag)) =
      (List.range 11).map fun k => (.derate, 18 + k, 4096, true) := by decide +kernel

/-- The same with a snapshot pending behind the evaluation. -/
def queued : State := waiting.setTd { waiting.td with pendingSnapshot := some emptySnapshot }

theorem witness_CompletionReleasesReadsAndSnapshot :
    waiting.cu.evaluation = some calmEvaluation ∧ waiting.td.pendingSnapshot = none ∧
    queued.cu.evaluation = some calmEvaluation ∧ queued.td.pendingSnapshot = some emptySnapshot := ⟨rfl, rfl, rfl, rfl⟩

/-- A present channel whose slot the pending snapshot leaves unwritten counts it at the completion that begins with it. -/
theorem test_a_pending_snapshot_is_decoded_at_the_completion :
    let fit := { EffectiveTable.reset with channels := EffectiveTable.reset.channels.set 26 clinEntry }
    let t := run [.evaluationCompletion] (queued.setLt { LimitTable.reset with effective := fit })
    t.td.channels[(26 : Fin 30)].faults = 1 ∧ t.td.channels[(27 : Fin 30)].faults = 0 ∧ t.td.pendingSnapshot = none ∧
    (t.cu.evaluation.map Evaluation.snapshot) = some emptySnapshot ∧ t.bp.heldReads = [] := by decide +kernel

/-- A state armed in SINGLE under the mask of reset, to take P records after its trigger. -/
def armedWith (postCount : Nat) (s : State) : State :=
  s.setCap { (captured .armed).cap with postCount := postCount }

theorem witness_CompletionAppendsItsFrameRecord :
    (evaluating (captured .armed)).cu.evaluation = some calmEvaluation ∧ (evaluating (captured .armed)).sq.state = .off ∧
    (evaluating (fitted driving)).sq.state.live ∧
    (run [.evaluationCompletion] (evaluating (fitted driving))).sq.state ≠ .discharge ∧
    (evaluating driving).sq.state.live ∧ (run [.evaluationCompletion] (evaluating driving)).sq.state = .discharge ∧
    dropping.sq.state = .discharge ∧ dropping.sq.destination = .tripped ∧
    stopping.sq.state = .discharge ∧ stopping.sq.destination ≠ .tripped ∧
    (run [.evaluationCompletion] (evaluating stopping)).sq.destination = .tripped ∧
    (run [.evaluationCompletion] (evaluating tripped)).sq.state = .tripped :=
  ⟨rfl, rfl, trivial, by decide +kernel, trivial, by decide +kernel, rfl, rfl, rfl, by decide, by decide +kernel,
    by decide +kernel⟩

/-- A TRIP record of the completion triggers before its frame record is appended: that record is the first after the trigger,
or, with none to take after it, is not appended. -/
theorem test_a_trip_of_the_completion_triggers_first :
    let c := (run [.evaluationCompletion] (evaluating (armedWith 2 driving))).cap
    let d := (run [.evaluationCompletion] (evaluating (armedWith 0 driving))).cap
    let e := (run [.evaluationCompletion] (evaluating (armedWith 2 (fitted driving)))).cap
    (c.state = .post ∧ c.ring.map FrameRecord.mark = [false, true] ∧ c.preTrigger = 1 ∧ c.postRemaining = 1) ∧
    (d.state = .frozen ∧ d.ring.length = 1) ∧
    (e.state = .armed ∧ e.ring.map FrameRecord.mark = [false, false]) := by decide +kernel

theorem witness_WordAIsStaged : State.reset.operating ∧ State.reset.mem.wf = true ∧ Master.commands .cp ∧ Master.commands .sp :=
  ⟨rfl, rfl, trivial, trivial⟩

theorem witness_WordBPairsWithItsWordA :
    (fitted State.reset).operating ∧ (fitted State.reset).mem.wf = true ∧ (fitted State.reset).td.telemetryLost = false ∧
    (evaluating State.reset).cu.evaluation.isSome = true ∧ Master.commands .sp := ⟨rfl, rfl, rfl, rfl, trivial⟩

theorem witness_OneWordUpdatesAreHandedOver :
    State.reset.operating ∧ State.reset.td.telemetryLost = true ∧ State.reset.cu.evaluation = none ∧
    (fitted State.reset).td.telemetryLost = false := ⟨rfl, rfl, rfl, rfl⟩

theorem witness_WordBTakesEffectWhileTelemetryIsLost :
    let s := State.reset.setBp { BusPassage.reset with stagingCp := some (.channel 29, 0x03000001) }
    s.operating ∧ s.mem.wf = true ∧ Master.commands .cp ∧ s.td.telemetryLost = true ∧ s.cu.evaluation = none ∧
    (if Master.cp = .cp then s.bp.stagingCp else s.bp.stagingSp) = some (.channel 29, 0x03000001) ∧
    Master.commands .sp ∧ (if Master.sp = .cp then s.bp.stagingCp else s.bp.stagingSp) = none :=
  ⟨rfl, rfl, trivial, rfl, rfl, rfl, trivial, rfl⟩

/-- With the holder holding another entry, a word B takes effect with the effective word A, and the holder stands. -/
theorem test_word_B_beside_another_holder :
    let s := run [.limitWordBWrite .cp (.general 0) 700]
      (State.reset.setBp { BusPassage.reset with stagingCp := some (.channel 29, 0x03000001) })
    s.lt.effective.general.prlim = 200 ∧ s.lt.effective.general.pfmin = 700 ∧
    s.bp.stagingCp = some (.channel 29, 0x03000001) := by decide +kernel

theorem witness_drive_link_reads :
    State.reset.operating ∧ State.reset.cu.evaluation = none ∧ (evaluating driving).operating ∧
    (evaluating driving).cu.evaluation.isSome = true ∧ 0 < (evaluating driving).lt.effective.general.holdMax ∧
    (evaluating driving).bp.heldReads.length < 4 ∧ inReset.pins.resetAsserted = true :=
  ⟨rfl, rfl, rfl, rfl, by decide, by decide, rfl⟩

theorem witness_HoldOffExpiryAnswersTheOldestRead :
    waiting.bp.heldReads = { word := .exciter, transaction := 3, holdMax := 40 } :: [] := rfl

theorem witness_ArcLinesMoveTheirFilters : driving.operating ∧ inReset.pins.resetAsserted = true := ⟨rfl, rfl⟩

/-- Strikes at the present moment. -/
def struck (n : Nat) (s : State) : State := s.setAm { s.am with strikes := List.replicate n { detector := 1, timestamp := 0 } }

theorem witness_QualifiedArcsStrikeOrAreRecorded :
    (arcInput .qualifying true driving).am.inputs[(0 : Fin 3)].filter = .qualifying ∧
    (arcInput .qualifying true driving).sq.state.live ∧
    EffectiveTable.reset.general.strikeLimit ≤ (struck 3 driving).am.strikes.length + 1 ∧
    (struck 2 driving).am.strikes.length + 1 < EffectiveTable.reset.general.strikeLimit ∧
    ¬ (arcInput .qualifying true State.reset).sq.state.live :=
  ⟨rfl, trivial, by decide, by decide, id⟩

theorem witness_ReleaseEndsTheArcEvent :
    let s := (stateIn .mute).setSq { Sequencer.reset with state := .mute, waiting := true }
    (arcInput .releasing false s).am.inputs[(0 : Fin 3)].filter = .releasing ∧
    (arcInput .releasing false s).sq.waiting = true ∧ (arcInput .releasing false s).sq.state = .mute ∧
    (∀ j : Fin 3, j ≠ 0 → (arcInput .releasing false s).am.inputs[j].filter = .idle) ∧
    driving.sq.waiting = false := ⟨rfl, rfl, rfl, by decide, rfl⟩

theorem witness_StuckInputsTripAndStrikesAge :
    let s : State := { arcInput .held true driving with msCounter := 2000 }
    let u : State := { struck 1 State.reset with msCounter := 60000 }
    s.am.inputs[(0 : Fin 3)].stuckTimer = some 0 ∧ 2000 ≤ (s.msCounter - 0).toNat ∧ s.sq.state.live ∧
    u.am.strikes = { detector := 1, timestamp := 0 } :: [] ∧
    u.lt.effective.general.window * 1000 ≤ (u.msCounter - 0).toNat ∧
    (arcInput .held true stopping).am.inputs[(0 : Fin 3)].stuckTimer = some 0 ∧
    (arcInput .held true stopping).sq.state = .discharge ∧ (arcInput .held true stopping).sq.destination ≠ .tripped ∧
    (arcInput .held true dropping).sq.destination = .tripped ∧
    ((1999 : Word) - 0).toNat < 2000 ∧ ((59999 : Word) - 0).toNat < u.lt.effective.general.window * 1000 :=
  ⟨rfl, by decide, trivial, rfl, by decide, rfl, rfl, by decide, rfl, by decide, by decide⟩

theorem witness_InterlockOpeningIsATripDemand :
    driving.operating ∧ driving.pins.interlockOpen = false ∧ driving.sq.state.live ∧ stopping.operating ∧
    stopping.sq.state = .discharge ∧ stopping.sq.destination ≠ .tripped ∧ dropping.sq.state = .discharge ∧
    dropping.sq.destination = .tripped ∧ tripped.sq.state = .tripped ∧ State.reset.sq.state = .off :=
  ⟨rfl, rfl, trivial, rfl, rfl, by decide, rfl, rfl, rfl, rfl⟩

/-- TRIPPED by the interlock alone, the line open, with its automatic restart allowed. -/
def atTheDoor : State :=
  { fitted (State.reset.setSq { Sequencer.reset with state := .tripped, primary := some .interlock }) with
    pins := { State.reset.pins with interlockOpen := true }
    lt := { LimitTable.reset with effective := { EffectiveTable.reset with
      general := { General.reset with autoInterlock := true } } } }

/-- The same with the line closed. -/
def doorClosed : State := atTheDoor.setPins { atTheDoor.pins with interlockOpen := false }

theorem doorClosed_restartable : doorClosed.restartable := by
  unfold State.restartable
  decide +kernel

theorem witness_InterlockClosingMayRestart :
    atTheDoor.operating ∧ atTheDoor.pins.interlockOpen = true ∧ doorClosed.autoRestarts ∧ ¬ State.reset.autoRestarts := by
  refine ⟨rfl, rfl, ⟨rfl, fun k hk => ?_, doorClosed_restartable⟩, fun h => absurd h.1 (by decide)⟩
  rcases hk with hk | hk
  · exact .inr (.inr ⟨(Option.some.inj hk).symm, rfl⟩)
  · exact absurd hk List.not_mem_nil

theorem test_closing_the_door_restarts :
    (run [.interlockClose] atTheDoor).sq.state = .settle ∧
    (run [.interlockClose] atTheDoor).fj.records.map (fun r => (r.kind, r.value, r.automatic, r.extra)) =
      [(.restart, 9, true, 0)] := by decide +kernel

/-- A completion in TRIPPED with the door closed restarts too, and its RESTART record, outside the mask of reset, leaves an
armed capture armed. -/
theorem test_a_completion_restarts :
    let t := run [.evaluationCompletion] (evaluating (armedWith 2 doorClosed))
    doorClosed.sq.state = .tripped ∧ t.sq.state = .settle ∧ t.cap.state = .armed ∧ t.cap.ring.length = 2 := by
  decide +kernel

theorem witness_IntervalExpiriesLeaveTheirState :
    let s := State.reset.setSq { Sequencer.reset with state := .settle, settleTimer := some 0 }
    let u := State.reset.setSq { Sequencer.reset with state := .mute, quenchTimer := some 0 }
    (s.msCounter - 0).toNat < 2 ^ 31 ∧ s.sq.state = .settle ∧ s.sq.settleTimer = some 0 ∧ u.sq.state = .mute ∧
    u.sq.quenchTimer = some 0 ∧ stopping.sq.dischargeTimer = some 0 ∧ stopping.sq.destination = .off ∧
    dropping.sq.dischargeTimer = some 0 ∧ dropping.sq.destination = .tripped :=
  ⟨by decide, rfl, rfl, rfl, rfl, rfl, rfl, rfl, rfl⟩

theorem witness_RestartIsRefusedByTheFirstFailingCheck :
    State.reset.operating ∧ State.reset.sq.state = .off ∧ State.reset.td.telemetryLost = true ∧
    restartCheck State.reset = some .telemetryLoss ∧
    restartCheck (State.reset.setTd { TelemetryDecoder.reset with telemetryLost := false }) = some .sensor ∧
    restartCheck (fitted inReset) = none ∧ driving.sq.state ≠ .off ∧ driving.sq.state ≠ .tripped := by
  refine ⟨rfl, rfl, rfl, ?_⟩
  decide

/-- Module 7 gated, with causes given. -/
def gatedModule (hot sensor : Bool) : State := State.reset.setMu { MismatchUnit.reset with
  admission := MismatchUnit.reset.admission.set 7 { gated := true, hot := hot, mismatch := true, sensor := sensor } }

theorem witness_RestartIsPerformedWhenEveryCheckPasses :
    doorClosed.operating ∧ Master.commands .sp ∧ doorClosed.sq.state = .tripped ∧ doorClosed.restartable :=
  ⟨rfl, trivial, rfl, doorClosed_restartable⟩

/-- A restart closes the FOLDBACK record and readmits the modules without HOT and SENSOR before its own record. -/
theorem test_restart_records :
    (performRestart false 3 ((gatedModule false false).setMu
      { (gatedModule false false).mu with foldbackOpen := true, v := 100 })).fj.records.map
      (fun r => (r.kind, r.source, r.value, r.closedFlag)) =
      [(.foldback, 0, 4095, true), (.moduleReadmitted, 7, 0, false), (.restart, 0, 0, false)] := by decide +kernel

theorem witness_requests :
    driving.operating ∧ Master.commands .cp ∧ driving.sq.state.live ∧ ¬ State.reset.sq.state.live ∧
    State.reset.cap.state ≠ .armed ∧ (captured .armed).cap.state = .armed ∧ (captured .armed).cap.postCount = 0 ∧
    ((captured .armed).setCap { (captured .armed).cap with postCount := 2047 }).cap.postCount ≠ 0 :=
  ⟨rfl, trivial, trivial, id, by decide, rfl, rfl, by decide⟩

theorem witness_ReadmitReturnsAModuleWithoutCause :
    (gatedModule false false).operating ∧ 8 ≤ (8 : Word).toNat % 65536 ∧ (7 : Word).toNat % 65536 = (7 : Fin 8).val ∧
    State.reset.mu.admission[(7 : Fin 8)].gated = false ∧
    (gatedModule false false).mu.admission[(7 : Fin 8)].gated = true ∧
    (gatedModule true true).mu.admission[(7 : Fin 8)].sensor = true ∧
    (gatedModule true false).mu.admission[(7 : Fin 8)].sensor = false ∧
    (gatedModule true false).mu.admission[(7 : Fin 8)].hot = true ∧
    (gatedModule false false).mu.admission[(7 : Fin 8)].hot = false :=
  ⟨rfl, by decide, by decide, rfl, rfl, rfl, rfl, rfl, rfl⟩

/-- A journal owned by a master. -/
def owned (o : Owner) : State := State.reset.setFj { FaultJournal.reset with owner := o }

theorem witness_ownership :
    State.reset.operating ∧ State.reset.fj.owner = .free ∧ (owned .cp).operating ∧ (owned .cp).fj.owner = .cp ∧
    (owned .sp).fj.owner = .sp := ⟨rfl, rfl, rfl, rfl, rfl⟩

theorem witness_StrayRequestsAreMisuse : State.reset.operating ∧ (0x7 : Lanes) ≠ 0xF ∧ (0xF : Lanes) = 0xF :=
  ⟨rfl, by decide, rfl⟩

/-- A journal of n records of a kind, numbered from 0. -/
def journalOf (n : Nat) (kind : RecordKind) : FaultJournal := { FaultJournal.reset with
  records := (List.range n).map fun k => recordOf kind (BitVec.ofNat 16 k), nextSeq := BitVec.ofNat 16 n }

theorem witness_AddedRecordsJoinTheTail :
    (∀ x ∈ (journalOf 63 .stop).records.head?, x.seq ≠ (journalOf 63 .stop).nextSeq) ∧
    (journalOf 63 .stop).records.length < 64 ∧ (journalOf 64 .stop).records.length = 64 ∧
    (∀ x ∈ (journalOf 64 .stop).records.head?, x.seq ≠ (journalOf 64 .stop).nextSeq) ∧
    (journalOf 64 .stop).records = [] ++ recordOf .stop 0 :: (journalOf 64 .stop).records.drop 1 ∧
    isAdvisory (recordOf .stop 0).kind = true ∧ isAdvisory (recordOf (.trip .cooling) 0).kind = false ∧
    (recordOf .stop 0).seq = ({ journalOf 1 .stop with nextSeq := 0 } : FaultJournal).nextSeq ∧
    (captured .armed).cap.mode = .single ∧ General.reset.triggerMask.getLsbD (kindCode .arc) = true := by decide +kernel

/-- An open record of FOLDBACK, and a full journal whose oldest record is held by a latch. -/
theorem test_open_fills_its_reference_and_removal_clears_its_marks :
    let open' := { recordOf .foldback 0 with openFlag := true, timestamp := 9 }
    let j := { journalOf 64 .stop with
      readLatches := Vector.replicate 4 (some { copy := recordOf .stop 0, held := true }) }
    (j.add 0 open').openRef .foldback 0 = some { seq := 64, timestamp := 9 } ∧
    (j.add 0 open').openRef .derate 18 = none ∧
    (j.add 0 open').readLatches[(2 : Fin 4)] = some { copy := recordOf .stop 0, held := false } := by decide +kernel

theorem witness_RecordsCoalesceAndClose :
    State.reset.fj.records = [] ∧
    (holding .telemetryGap).fj.records = [] ++ [recordOf .telemetryGap 0] ∧ (recordOf .telemetryGap 0).source = 0 ∧
    ({ FaultJournal.reset with foldbackRef := some { seq := 0, timestamp := 5 } } : FaultJournal).openRef .foldback 0 =
      some { seq := 0, timestamp := 5 } ∧
    FaultJournal.reset.openRef .derate 18 = none ∧ FaultJournal.reset.openRef .derate 28 = none ∧
    (holding .foldback).fj.records = [] ++ recordOf .foldback 0 :: [] ∧ RecordKind.derate ≠ .foldback := by decide

/-- A close in place keeps the other open references, and an added close takes its record as any addition does. -/
theorem test_closes_leave_the_other_references :
    let refs : FaultJournal := { (holding .foldback).fj with
      foldbackRef := some { seq := 0, timestamp := 5 }, derateRefs := Vector.replicate 11 (some { seq := 9, timestamp := 7 }) }
    let s := { State.reset.setFj refs with msCounter := 10 }
    let a := (closeRecord .foldback 0 4095 s).fj
    let b := (closeRecord .derate 20 4096 s).fj
    (a.records.map (fun r => (r.seq, r.closedFlag, r.extra)) = [(0, true, 5)] ∧ a.foldbackRef = none ∧
      a.derateRefs = refs.derateRefs) ∧
    (b.records.map (fun r => (r.seq, r.closedFlag, r.extra)) = [(0, false, 0), (1, true, 3)] ∧ b.nextSeq = 2 ∧
      b.foldbackRef = refs.foldbackRef ∧ b.openRef .derate 20 = none ∧ b.openRef .derate 21 = refs.openRef .derate 21) := by
  decide +kernel

theorem witness_HeadWindowLatchesAndDrains :
    State.reset.operating ∧ (3 : Fin 4).val = masterTag .sp ∧ State.reset.fj.records = [] ∧
    (holding .arc).fj.records = recordOf .arc 0 :: [] ∧ (owned .sp).fj.owner = .sp ∧ (3 : Fin 4) ≠ 0 :=
  ⟨rfl, rfl, rfl, rfl, rfl, by decide⟩

theorem witness_CaptureReadsWalkTheFrozenRun :
    (captured .frozen).operating ∧ (captured .frozen).cap.state = .frozen ∧
    (captured .frozen).cap.words = 0x201 :: [] ∧ 0 < (captured .frozen).cap.words.length ∧
    (State.reset.setCap { CaptureUnit.reset with state := .frozen }).cap.words = [] ∧ ¬ Master.commands .ts :=
  ⟨rfl, rfl, by decide, by decide, by decide, id⟩

theorem witness_ServedWordsAreReadWithoutEffect :
    State.reset.operating ∧ Master.ts ≠ .dl ∧ (0xFFFFF : Address).toNat / 4096 ≠ State.reset.bp.regionBase.toNat ∧
    State.reset.bp.lastRequest = none ∧
    afterTheStop.bp.lastRequest = some { request := .restart, master := .cp, result := .refusedCause .interlock } ∧
    State.reset.am.strikes = [] ∧ (struck 1 State.reset).am.strikes = { detector := 1, timestamp := 0 } :: [] :=
  ⟨rfl, by decide, by decide, rfl, rfl, rfl, rfl⟩

theorem test_setpoint_and_plain_reads_come_from_memory :
    let s : State := { State.reset with mem := [(4 * 0x010, 7), (4 * 0x483, 8)] }
    (busRead .ts 0x010 2 s).replies = [{ master := .ts, transaction := 2, data := 7 }] ∧
    (busRead .dl 0x483 5 s).replies = [{ master := .dl, transaction := 5, data := 8 }] := by decide +kernel

theorem witness_UninterpretedWritesAreAbsorbedOrForwarded :
    State.reset.operating ∧ State.reset.mem.wf = true ∧ 0x482 < 4096 ∧
    (0xFFFFF : Address).toNat / 4096 ≠ State.reset.bp.regionBase.toNat ∧ (0x1FF = oneWordOffset (.summary 31)) ∧
    ¬ Master.commands .dl := ⟨rfl, rfl, by decide, by decide, rfl, id⟩

/-- The gaps of the limit area are plain memory, at their first and last offsets. -/
theorem test_limit_area_gaps_are_plain :
    [0x13C, 0x13F, 0x170, 0x17F, 0x1DA, 0x1DF].map areaOf = List.replicate 6 .plain := by decide +kernel

/-- The last setpoint word and the word after it under straps 0, and the same offset one region higher. -/
theorem witness_ResetForwardsEveryAccess : inReset.pins.resetAsserted = true ∧ inReset.mem.wf = true ∧
    ((0x00010 : Address).toNat / 4096 = inReset.pins.straps.toNat ∧ (0x00010 : Address).toNat % 4096 < 0x011) ∧
    0x011 ≤ (0x00011 : Address).toNat % 4096 ∧ (0x01010 : Address).toNat / 4096 ≠ inReset.pins.straps.toNat ∧
    Master.cp ≠ .dl := by decide

/-- In reset a served offset reads as memory holds it, and the recognition of setpoint reads follows a strap that moves. -/
theorem test_reads_during_reset :
    let s : State := { inReset with mem := [(4 * 0x010, 7), (4 * 0x439, 8), (4 * 0x1010, 9)] }
    let u := s.setPins { s.pins with straps := 1 }
    (busRead .dl 0x00010 2 s).replies.map Reply.data = [0] ∧ (busRead .cp 0x00010 2 s).replies.map Reply.data = [7] ∧
    (busRead .sp 0x00439 2 s).replies.map Reply.data = [8] ∧ (busRead .dl 0x01010 2 s).replies.map Reply.data = [9] ∧
    (busRead .dl 0x00010 2 u).replies.map Reply.data = [7] ∧ (busRead .dl 0x01010 2 u).replies.map Reply.data = [0] := by
  decide +kernel

theorem witness_ResetAndTheMillisecondCounter : inReset.pins.resetAsserted = true ∧ driving.operating := ⟨rfl, rfl⟩

/-- A held read of the exciter drive is answered at the assertion with 0 in its drive field and memory's upper half. -/
theorem test_held_read_at_the_assertion :
    (run [.resetAssert 0] { waiting with mem := [(0, 1), (2, 3)] }).replies =
      [{ master := .dl, transaction := 3, data := 0x00030000 }] := by decide +kernel

end Sys2Proof.Tests
end

section
/-! PROOF. What one command can do to the channel records, the limits in effect, the Mismatch Unit, and to what waits for
an evaluation. Every command has one of eight effects, and an invariant of these parts is proved of each effect once. -/

namespace Sys2Proof.Machine

/-- A change that leaves the channel records, the limits in effect, the evaluation in flight and what waits for it, and
keeps the Mismatch Unit sound. -/
structure Quiet (s t : State) : Prop where
  channels : t.td.channels = s.td.channels
  pendingSnapshot : t.td.pendingSnapshot = s.td.pendingSnapshot
  effective : t.lt.effective = s.lt.effective
  heldReads : t.bp.heldReads = s.bp.heldReads
  evaluation : t.cu.evaluation = s.cu.evaluation
  mismatch : MismatchSound s.mu → MismatchSound t.mu

theorem Quiet.refl (s : State) : Quiet s s := ⟨rfl, rfl, rfl, rfl, rfl, id⟩

theorem Quiet.trans {s t u : State} (h : Quiet s t) (k : Quiet t u) : Quiet s u where
  channels := k.channels.trans h.channels
  pendingSnapshot := k.pendingSnapshot.trans h.pendingSnapshot
  effective := k.effective.trans h.effective
  heldReads := k.heldReads.trans h.heldReads
  evaluation := k.evaluation.trans h.evaluation
  mismatch := k.mismatch ∘ h.mismatch

/-- A change that leaves the decoder, the limit table, the Mismatch Unit, the Bus Passage and the evaluation in flight is
quiet. -/
theorem Quiet.of_blocks {s t : State} (td : t.td = s.td) (lt : t.lt = s.lt) (mu : t.mu = s.mu) (bp : t.bp = s.bp)
    (evaluation : t.cu.evaluation = s.cu.evaluation) : Quiet s t :=
  ⟨by rw [td], by rw [td], by rw [lt], by rw [bp], evaluation, by rw [mu]; exact id⟩

/-! ### The shared operations -/

theorem quiet_forwardWrite (s : State) (a : Address) (lanes : Lanes) (w : Word) : Quiet s (s.forwardWrite a lanes w) :=
  .of_blocks rfl rfl rfl rfl rfl

theorem quiet_reply (s : State) (m : Master) (x : BitVec 4) (d : Word) : Quiet s (s.reply m x d) :=
  .of_blocks rfl rfl rfl rfl rfl

theorem quiet_misuse (s : State) (offset : Nat) : Quiet s (s.misuse offset) := ⟨rfl, rfl, rfl, rfl, rfl, id⟩

theorem quiet_setS4 (s : State) (r : Request) (m : Master) (res : RequestResult) : Quiet s (s.setS4 r m res) :=
  ⟨rfl, rfl, rfl, rfl, rfl, id⟩

theorem quiet_setFj (s : State) (j : FaultJournal) : Quiet s (s.setFj j) := .of_blocks rfl rfl rfl rfl rfl

theorem quiet_setCap (s : State) (c : CaptureUnit) : Quiet s (s.setCap c) := .of_blocks rfl rfl rfl rfl rfl

theorem quiet_setAm (s : State) (a : ArcMonitor) : Quiet s (s.setAm a) := .of_blocks rfl rfl rfl rfl rfl

theorem quiet_setSq (s : State) (q : Sequencer) : Quiet s (s.setSq q) := .of_blocks rfl rfl rfl rfl rfl

theorem quiet_setPins (s : State) (p : Pins) : Quiet s (s.setPins p) := .of_blocks rfl rfl rfl rfl rfl

theorem quiet_addRecord (s : State) (r : Record) : Quiet s (addRecord r s) := .of_blocks rfl rfl rfl rfl rfl

theorem quiet_enterState (s : State) (st : SeqState) (d : Destination) : Quiet s (enterState st d s) :=
  .of_blocks rfl rfl rfl rfl rfl

theorem quiet_tripDemand (s : State) (k : TripKind) : Quiet s (tripDemand k s) := by
  refine .of_blocks (by simp) (by simp) (by simp) (by simp) ?_
  rw [tripDemand, tripDemands_cu]
  obtain ⟨-, -, -, h⟩ := enterDemands_ceilings [k] s
  exact h

theorem quiet_performRestart (s : State) (automatic : Bool) (tag : Nat) : Quiet s (performRestart automatic tag s) where
  channels := by simp
  pendingSnapshot := by simp
  effective := by simp
  heldReads := by simp
  evaluation := by rw [performRestart_cu]; rfl
  mismatch := by rw [performRestart_mu]; exact restarted_sound s.mu

theorem quiet_autoRestart (s : State) : Quiet s (autoRestart s) := by
  rcases autoRestart_cases s with h | ⟨-, h⟩ <;> rw [h]
  · exact .refl s
  · exact quiet_performRestart s true 0

theorem quiet_strikeSignal (s : State) : Quiet s (strikeSignal s) := by
  unfold strikeSignal
  cases s.sq.state with
  | run => exact quiet_enterState _ _ _
  | mute | settle => exact quiet_setSq _ _
  | off | discharge | tripped => exact .refl s

theorem quiet_arcClear (s : State) : Quiet s (arcClear s) := by
  unfold arcClear
  split
  · exact quiet_enterState _ _ _
  · exact quiet_enterState _ _ _
  · exact .refl s

theorem quiet_strike (s : State) (i : Fin 3) : Quiet s (strike i s) := by
  unfold strike
  dsimp only
  split
  · exact ((quiet_setAm _ _).trans (quiet_addRecord _ _)).trans (quiet_tripDemand _ _)
  · exact ((quiet_setAm _ _).trans (quiet_addRecord _ _)).trans (quiet_strikeSignal _)

theorem quiet_arcEvent (s : State) (i : Fin 3) : Quiet s (arcEvent i s) := by
  unfold arcEvent
  cases s.sq.state with
  | settle | run | mute => exact quiet_strike s i
  | off | discharge | tripped => exact quiet_addRecord _ _

/-! ### Requests -/

/-- The block that judges a request (R187). -/
def judgeOf : Request → Master → Word → State → State × RequestResult
  | .restart, m, _ => judgeRestart m
  | .stop, m, _ => judgeStop m
  | .readmit, _, w => judgeReadmit w
  | .strikeClear, _, _ => judgeStrikeClear
  | .journalClear, m, _ => judgeJournalClear m
  | .ownershipClear, m, _ => judgeOwnershipClear m
  | .captureArm, _, w => judgeCaptureArm w
  | .captureStop, _, _ => judgeCaptureStop

/-- A module readmitted keeps the Mismatch Unit sound: its MISMATCH cause is removed, and it stays GATED under another. -/
theorem readmit_sound (u : MismatchUnit) (m : Fin 8) (h : MismatchSound u) : MismatchSound (u.readmit m) := by
  obtain ⟨gates, foldback⟩ := h
  refine ⟨fun k hk => ?_, foldback⟩
  have hm := gates m
  simp only [MismatchUnit.readmit, Fin.getElem_fin, Vector.getElem_set, Admission.noCause,
    Admission.restarted] at hk hm ⊢
  split at hk
  · next e =>
    simp only [e, if_true]
    cases h1 : u.admission[m.val].hot <;> cases h2 : u.admission[m.val].sensor <;> simp_all
  · next e =>
    rw [if_neg e]
    exact gates k hk

theorem quiet_judgeOf (r : Request) (m : Master) (w : Word) (s : State) : Quiet s (judgeOf r m w s).1 := by
  cases r with
  | restart =>
    simp only [judgeOf, judgeRestart]
    cases s.sq.state with
    | off | tripped =>
      cases restartCheck s with
      | some _ => exact .refl s
      | none => exact quiet_performRestart _ _ _
    | settle | run | mute | discharge => exact .refl s
  | stop =>
    simp only [judgeOf, judgeStop]
    cases s.sq.state with
    | settle | run | mute => exact (quiet_addRecord _ _).trans (quiet_enterState _ _ _)
    | off | discharge | tripped => exact .refl s
  | readmit =>
    have readmitted (k : Fin 8) : Quiet s (s.setMu (s.mu.readmit k)) :=
      ⟨rfl, rfl, rfl, rfl, rfl, readmit_sound s.mu k⟩
    simp only [judgeOf, judgeReadmit]
    repeat' split
    · exact .refl s
    · exact readmitted _
    · exact readmitted _
    · exact (readmitted _).trans (quiet_addRecord _ _)
    · exact .refl s
  | strikeClear =>
    simp only [judgeOf, judgeStrikeClear]
    cases s.sq.state with
    | off | tripped => exact quiet_setAm _ _
    | settle | run | mute | discharge => exact .refl s
  | journalClear =>
    simp only [judgeOf, judgeJournalClear]
    split
    · exact quiet_setFj _ _
    · exact .refl s
  | ownershipClear =>
    simp only [judgeOf, judgeOwnershipClear]
    cases m with
    | sp =>
      dsimp only
      split
      · exact .refl s
      · exact quiet_setFj _ _
    | cp | ts | dl => exact .refl s
  | captureArm => exact quiet_setCap _ _
  | captureStop =>
    simp only [judgeOf, judgeCaptureStop]
    cases s.cap.state with
    | armed => exact quiet_setCap _ _
    | idle | post | frozen => exact .refl s

theorem quiet_takeRequest (r : Request) (m : Master) (lanes : Lanes) (w : Word) (s : State) :
    Quiet s (takeRequest r m lanes w (judgeOf r m w) s) := by
  unfold takeRequest
  split
  · exact quiet_forwardWrite _ _ _ _
  · split
    · cases m with
      | cp | sp => exact (quiet_judgeOf r _ w s).trans (quiet_setS4 _ _ _ _)
      | ts | dl => exact (quiet_setS4 _ _ _ _).trans (quiet_misuse _ _)
    · exact quiet_misuse _ _

/-! ### Accesses -/

theorem quiet_takeHeader (w : Word) (s : State) : Quiet s (takeHeader w s) where
  channels := rfl
  pendingSnapshot := rfl
  effective := by simp
  heldReads := by simp
  evaluation := by simp
  mismatch := by simp

theorem quiet_takeData (k : Fin 30) (w : Word) (s : State) : Quiet s (takeData k w s) := by
  unfold takeData
  split <;> exact ⟨rfl, rfl, rfl, rfl, rfl, id⟩

theorem quiet_stageWordA (m : Master) (e : TwoWordEntry) (w : Word) (s : State) : Quiet s (stageWordA m e w s) := by
  cases m <;> exact ⟨rfl, rfl, rfl, rfl, rfl, id⟩

theorem quiet_setStaging (m : Master) (x : Option (TwoWordEntry × Word)) (s : State) :
    Quiet s (s.setBp (s.bp.setStaging m x)) := by
  cases m <;> exact ⟨rfl, rfl, rfl, rfl, rfl, id⟩

theorem quiet_ownershipWrite (m : Master) (lanes : Lanes) (w : Word) (s : State) :
    Quiet s (ownershipWrite m lanes w s) := by
  unfold ownershipWrite
  repeat' split
  · exact quiet_forwardWrite _ _ _ _
  · exact quiet_setFj _ _
  · exact quiet_misuse _ _

theorem quiet_windowRead (m : Master) (w : Fin 4) (x : BitVec 4) (s : State) : Quiet s (windowRead m w x s) := by
  unfold windowRead
  split
  · exact quiet_reply _ _ _ _
  · exact (quiet_setFj _ _).trans (quiet_reply _ _ _ _)

theorem quiet_lossDemand (s : State) : Quiet s (lossDemand s) := by
  unfold lossDemand
  cases s.sq.state with
  | settle | run | mute => exact quiet_tripDemand _ _
  | off | discharge | tripped => exact .refl s

/-! ### What a command does -/

/-- What a command can do to the channel records, the limits in effect, the Mismatch Unit, the evaluation in flight and
what waits for it: nothing, or, after quiet changes alone, one operation of the part. -/
inductive Effect (s : State) : State → Prop
  /-- None of them is touched. -/
  | quiet {t : State} (h : Quiet s t) : Effect s t
  /-- A frame end is taken, or is an orphan. -/
  | frameEnd {u : State} (w : Word) (h : Quiet s u) : Effect s (takeEnd w u)
  /-- An update of a limit is handed over. -/
  | handOver {u : State} (x : Update) (h : Quiet s u) : Effect s (handOver x u)
  /-- Telemetry is lost and the pending updates take effect. -/
  | timeout {u : State} (h : Quiet s u) : Effect s (takePendingNow u)
  /-- A drive-link read arrives. -/
  | driveLinkRead (w : Setpoint) (x : BitVec 4) : Effect s (driveLinkRead w x s)
  /-- The oldest held read expires. -/
  | expiry (h : HeldRead) (rest : List HeldRead) (held : s.bp.heldReads = h :: rest) (expiryCount : Nat) :
      Effect s ((answerRead h.word h.transaction s).setBp
        { s.bp with heldReads := rest, expiryCount := expiryCount, expiryFlag := true })
  /-- The evaluation in flight completes. -/
  | completion (ev : Evaluation) (h : s.cu.evaluation = some ev) : Effect s (completeEvaluation ev s)
  /-- Reset is asserted. -/
  | reset (straps : BitVec 8) : Effect s (holdInReset straps s)

theorem effect_telemetryWrite (m : Master) (lanes : Lanes) (slot : Fin 32) (w : Word) (s : State) :
    Effect s (telemetryWrite m lanes slot w s) := by
  have stored := quiet_forwardWrite s (regionAddress s (slotOffset slot)) lanes w
  unfold telemetryWrite takeSlot
  dsimp only
  split
  · exact .quiet stored
  · split
    · split
      · exact .quiet (stored.trans (quiet_takeData _ _ _))
      · split
        · exact .quiet (stored.trans (quiet_takeHeader _ _))
        · exact .frameEnd w stored
    · exact .quiet (stored.trans (quiet_misuse _ _))

theorem effect_formWordB {s u : State} (h : Quiet s u) (m : Master) (e : TwoWordEntry) (w : Word) :
    Effect s (formWordB m e w u) := by
  unfold formWordB
  repeat' split
  · exact .handOver _ (h.trans (quiet_setStaging _ _ _))
  all_goals exact .handOver _ h

/-- A write to a limit entry has the effect of taking it, where it is interpreted. -/
theorem effect_limitWrite (m : Master) (lanes : Lanes) (offset : Nat) (w : Word) (take : State → State) (s : State)
    (h : ∀ u, Quiet s u → Effect s (take u)) : Effect s (limitWrite m lanes offset w take s) := by
  have stored := quiet_forwardWrite s (regionAddress s offset) lanes w
  unfold limitWrite
  dsimp only
  split
  · exact .quiet stored
  · split
    · exact h _ stored
    · exact .quiet (stored.trans (quiet_misuse _ _))

theorem effect_limitWriteA (m : Master) (lanes : Lanes) (e : TwoWordEntry) (w : Word) (s : State) :
    Effect s (limitWriteA m lanes e w s) :=
  effect_limitWrite _ _ _ _ _ _ fun _ h => .quiet (h.trans (quiet_stageWordA _ _ _ _))

theorem effect_limitWriteB (m : Master) (lanes : Lanes) (e : TwoWordEntry) (w : Word) (s : State) :
    Effect s (limitWriteB m lanes e w s) :=
  effect_limitWrite _ _ _ _ _ _ fun _ h => effect_formWordB h m e w

theorem effect_limitWriteOne (m : Master) (lanes : Lanes) (e : OneWordEntry) (w : Word) (s : State) :
    Effect s (limitWriteOne m lanes e w s) :=
  effect_limitWrite _ _ _ _ _ _ fun _ h => .handOver _ h

theorem effect_takeRequest (r : Request) (m : Master) (lanes : Lanes) (w : Word) (s : State) :
    Effect s (takeRequest r m lanes w (judgeOf r m w) s) := .quiet (quiet_takeRequest r m lanes w s)

theorem effect_regionWrite (m : Master) (offset : Nat) (a : Address) (lanes : Lanes) (w : Word) (s : State) :
    Effect s (regionWrite m offset a lanes w s) := by
  unfold regionWrite
  cases areaOf offset with
  | plain | setpoint _ => exact .quiet (quiet_forwardWrite _ _ _ _)
  | telemetry slot => exact effect_telemetryWrite m lanes slot w s
  | limitA e => exact effect_limitWriteA m lanes e w s
  | limitB e => exact effect_limitWriteB m lanes e w s
  | limitOne e => exact effect_limitWriteOne m lanes e w s
  | request r => cases r <;> exact effect_takeRequest _ m lanes w s
  | ownership => exact .quiet (quiet_ownershipWrite _ _ _ _)
  | effectiveView _ | status _ | headWindow _ | captureStart | captureContinue | captureStatus =>
    exact .quiet (quiet_misuse _ _)

theorem effect_busWrite (m : Master) (a : Address) (lanes : Lanes) (w : Word) (s : State) :
    Effect s (busWrite m a lanes w s) := by
  unfold busWrite
  split
  · exact .quiet (quiet_forwardWrite _ _ _ _)
  · split
    · exact .quiet (quiet_forwardWrite _ _ _ _)
    · exact effect_regionWrite _ _ _ _ _ _

/-- Every command has one of these effects. -/
theorem exec_effect (c : Instr) (s t : State) (h : exec c s = .next t) : Effect s t := by
  cases c with
  | frameHeaderWrite w => cases h; exact effect_telemetryWrite _ _ _ _ _
  | dataSlotWrite slot w => cases h; exact effect_telemetryWrite _ _ _ _ _
  | frameEnd w => cases h; exact effect_telemetryWrite _ _ _ _ _
  | limitWordAWrite m e w => cases h; exact effect_limitWriteA _ _ _ _ _
  | limitWordBWrite m e w => cases h; exact effect_limitWriteB _ _ _ _ _
  | limitOneWordWrite m e w => cases h; exact effect_limitWriteOne _ _ _ _ _
  | dlExciterDriveRead x => cases h; exact .driveLinkRead _ _
  | dlTrimRead m x => cases h; exact .driveLinkRead _ _
  | dlGateRead m x => cases h; exact .driveLinkRead _ _
  | restart m lanes w => cases h; exact effect_takeRequest .restart m lanes w s
  | stop m lanes w => cases h; exact effect_takeRequest .stop m lanes w s
  | readmit m lanes w => cases h; exact effect_takeRequest .readmit m lanes w s
  | strikeClear m lanes w => cases h; exact effect_takeRequest .strikeClear m lanes w s
  | journalClear m lanes w => cases h; exact effect_takeRequest .journalClear m lanes w s
  | ownershipClear m lanes w => cases h; exact effect_takeRequest .ownershipClear m lanes w s
  | captureArm m lanes w => cases h; exact effect_takeRequest .captureArm m lanes w s
  | captureStop m lanes w => cases h; exact effect_takeRequest .captureStop m lanes w s
  | absorbedWrite m a lanes w => cases h; exact effect_busWrite _ _ _ _ _
  | ownershipWordWrite m lanes w => cases h; exact .quiet (quiet_ownershipWrite _ _ _ _)
  | headWindowWord0Read m x => cases h; exact .quiet (quiet_windowRead _ _ _ _)
  | headWindowWordRead m w x => cases h; exact .quiet (quiet_windowRead _ _ _ _)
  | ownershipWordRead m x =>
    simp only [exec, execOwnershipWordRead] at h
    split at h <;> cases h
    · exact .quiet (quiet_reply _ _ _ _)
    · exact .quiet ((quiet_setFj _ _).trans (quiet_reply _ _ _ _))
  | cpS0Read x =>
    simp only [exec, execCpS0Read] at h
    split at h <;> cases h
    · exact .quiet (quiet_reply _ _ _ _)
    · exact .quiet ⟨rfl, rfl, rfl, rfl, rfl, id⟩
  | captureStartAliasRead m x =>
    simp only [exec, execCaptureStartAliasRead] at h
    split at h <;> cases h
    · exact .quiet (quiet_reply _ _ _ _)
    · exact .quiet ((quiet_setCap _ _).trans (quiet_reply _ _ _ _))
  | captureContinueAliasRead m x =>
    simp only [exec, execCaptureContinueAliasRead] at h
    split at h <;> cases h
    · exact .quiet (quiet_reply _ _ _ _)
    · exact .quiet ((quiet_setCap _ _).trans (quiet_reply _ _ _ _))
  | frameTimeoutExpiry =>
    simp only [exec, execFrameTimeoutExpiry] at h
    split at h <;> cases h
    · have stopped : Quiet s (s.setTd { s.td with frameTimer := none, telemetryLost := true }) :=
        ⟨rfl, rfl, rfl, rfl, rfl, id⟩
      exact .timeout (stopped.trans (quiet_lossDemand _))
    · exact .quiet (.refl s)
  | evaluationCompletion =>
    simp only [exec, execEvaluationCompletion] at h
    split at h
    · cases h; exact .quiet (.refl s)
    · next ev hev => exact Host.Outcome.next.inj h ▸ .completion ev hev
  | holdOffExpiry =>
    simp only [exec, execHoldOffExpiry] at h
    split at h
    · cases h; exact .quiet (.refl s)
    · next held rest hh => exact Host.Outcome.next.inj h ▸ .expiry held rest hh _
  | arcLineAssert i =>
    simp only [exec, execArcLineAssert, setArcLine] at h
    split at h <;> cases h
    · exact .quiet (quiet_setPins _ _)
    · exact .quiet ((quiet_setPins _ _).trans (quiet_setAm _ _))
  | arcLineDeassert i =>
    simp only [exec, execArcLineDeassert, setArcLine] at h
    split at h <;> cases h
    · exact .quiet (quiet_setPins _ _)
    · exact .quiet ((quiet_setPins _ _).trans (quiet_setAm _ _))
  | arcQualifyExpiry i =>
    simp only [exec, execArcQualifyExpiry] at h
    split at h <;> cases h
    · exact .quiet ((quiet_setAm _ _).trans (quiet_arcEvent _ _))
    · exact .quiet (.refl s)
  | arcReleaseExpiry i =>
    simp only [exec, execArcReleaseExpiry] at h
    split at h
    · split at h <;> cases h
      · exact .quiet (quiet_setAm _ _)
      · exact .quiet ((quiet_setAm _ _).trans (quiet_arcClear _))
    · cases h; exact .quiet (.refl s)
  | stuckTimerExpiry i =>
    simp only [exec, execStuckTimerExpiry] at h
    split at h <;> cases h
    · exact .quiet ((quiet_setAm _ _).trans (quiet_tripDemand _ _))
    · exact .quiet (.refl s)
  | strikeEntryAgeing =>
    simp only [exec, execStrikeEntryAgeing] at h
    split at h
    · cases h; exact .quiet (.refl s)
    · split at h <;> cases h
      · exact .quiet (quiet_setAm _ _)
      · exact .quiet (.refl s)
  | interlockOpen =>
    simp only [exec, execInterlockOpen] at h
    split at h
    · cases h; exact .quiet (.refl s)
    · split at h <;> cases h
      · exact .quiet (quiet_setPins _ _)
      · exact .quiet ((quiet_setPins _ _).trans (quiet_tripDemand _ _))
  | interlockClose =>
    simp only [exec, execInterlockClose] at h
    split at h
    · split at h <;> cases h
      · exact .quiet (quiet_setPins _ _)
      · exact .quiet ((quiet_setPins _ _).trans (quiet_autoRestart _))
    · cases h; exact .quiet (.refl s)
  | settleExpiry =>
    simp only [exec, execSettleExpiry] at h
    split at h
    · split at h <;> cases h
      · exact .quiet (quiet_setSq _ _)
      · exact .quiet (quiet_enterState _ _ _)
    · cases h; exact .quiet (.refl s)
  | quenchExpiry =>
    simp only [exec, execQuenchExpiry] at h
    split at h
    · split at h <;> cases h
      · exact .quiet (quiet_setSq _ _)
      · exact .quiet (quiet_enterState _ _ _)
    · cases h; exact .quiet (.refl s)
  | dischargeExpiry =>
    simp only [exec, execDischargeExpiry] at h
    split at h <;> cases h
    · exact .quiet (quiet_enterState _ _ _)
    · exact .quiet (.refl s)
  | resetAssert straps => cases h; exact .reset straps
  | resetRelease straps =>
    simp only [exec, execResetRelease] at h
    split at h <;> cases h
    · exact .quiet ⟨rfl, rfl, rfl, rfl, rfl, id⟩
    · exact .quiet (.refl s)
  | millisecondCounterTick =>
    simp only [exec, execMillisecondCounterTick] at h
    split at h <;> cases h
    · exact .quiet (.refl s)
    · exact .quiet (.of_blocks rfl rfl rfl rfl rfl)

end Sys2Proof.Machine
end

section
/-! PROOF. What waits for an evaluation. -/

namespace Sys2Proof.Machine

theorem Quiet.waitingSound {s t : State} (h : Quiet s t) (hs : WaitingSound s) : WaitingSound t := by
  unfold WaitingSound
  rw [h.heldReads, h.evaluation, h.pendingSnapshot]
  exact hs

/-- With an evaluation in flight, four held reads at most are all it takes. -/
theorem waitingSound_of_inFlight {s : State} (h : s.inFlight = true)
    (reads : s.bp.heldReads.length ≤ Config.heldReadCapacity) : WaitingSound s := by
  refine ⟨reads, fun none => ?_⟩
  rw [State.inFlight, none] at h
  exact absurd h (by decide)

/-- A table that takes effect outside an evaluation refreshes the channel records, and leaves the rest of the decoder. -/
theorem takeEffectNow_td (t : EffectiveTable) (s : State) : (takeEffectNow t s).td =
    { s.td with channels := Vector.ofFn fun c => refreshRecordNow t.channels[c] s.td.channels[c] } := by
  unfold takeEffectNow
  dsimp only
  rw [derateCloses_td, State.setTd_td, setTable_td]

theorem takeEffectNow_lt (t : EffectiveTable) (s : State) : (takeEffectNow t s).lt = { s.lt with effective := t } := by
  unfold takeEffectNow
  dsimp only
  rw [derateCloses_lt]
  rfl

theorem takeEffectNow_am (t : EffectiveTable) (s : State) : (takeEffectNow t s).am = { s.am with
    strikes := strikesKept s.msCounter s.lt.effective.general t.general s.am.strikes } := by
  unfold takeEffectNow
  dsimp only
  rw [derateCloses_am]
  rfl

theorem takeEffectNow_waitingSound (t : EffectiveTable) (s : State) (h : WaitingSound s) :
    WaitingSound (takeEffectNow t s) := by
  unfold WaitingSound
  rw [takeEffectNow_bp, takeEffectNow_cu, takeEffectNow_td]
  exact h

theorem takePendingNow_waitingSound (s : State) (h : WaitingSound s) : WaitingSound (takePendingNow s) :=
  takeEffectNow_waitingSound _ _ h

theorem handOver_waitingSound (x : Update) (s : State) (h : WaitingSound s) : WaitingSound (handOver x s) := by
  unfold handOver
  split
  · exact takeEffectNow_waitingSound _ _ h
  · exact h

/-- A snapshot placed waits only behind an evaluation. -/
theorem placeSnapshot_waitingSound (n : Snapshot) (s : State) (h : WaitingSound s) :
    WaitingSound (placeSnapshot n s) := by
  have reads : (placeSnapshot n s).bp.heldReads.length ≤ Config.heldReadCapacity := by
    rw [placeSnapshot_bp]
    exact h.1
  refine waitingSound_of_inFlight ?_ reads
  unfold placeSnapshot
  split
  · next inFlight => simpa [State.inFlight] using inFlight
  · exact startEvaluation_inFlight s n

theorem takeEnd_waitingSound (w : Word) (s : State) (h : WaitingSound s) : WaitingSound (takeEnd w s) := by
  unfold takeEnd
  split
  · exact placeSnapshot_waitingSound _ _ h
  · exact h

/-- A drive-link read is held only while an evaluation is in flight and the queue has room. -/
theorem driveLinkRead_waitingSound (w : Setpoint) (x : BitVec 4) (s : State) (h : WaitingSound s) :
    WaitingSound (driveLinkRead w x s) := by
  unfold driveLinkRead
  split
  · exact h
  · split
    · next holds =>
      simp only [holdsRead, Bool.and_eq_true, decide_eq_true_eq] at holds
      obtain ⟨⟨inFlight, -⟩, room⟩ := holds
      refine waitingSound_of_inFlight inFlight ?_
      simpa using room
    · exact h

/-- A completion empties the queue, and leaves a snapshot pending no longer. -/
theorem completeEvaluation_waitingSound (ev : Evaluation) (s : State) : WaitingSound (completeEvaluation ev s) := by
  obtain ⟨u, hu, -, -, -, -, -, bp, -⟩ := completeEvaluation_released ev s
  have reads : u.bp.heldReads = [] := by rw [bp]
  rw [hu]
  cases hn : u.td.pendingSnapshot with
  | none =>
    rw [startPending_none u hn]
    exact ⟨by rw [reads]; exact Nat.zero_le _, fun _ => ⟨reads, hn⟩⟩
  | some n =>
    rw [startPending_some u n hn]
    refine waitingSound_of_inFlight (startEvaluation_inFlight _ _) ?_
    rw [startEvaluation_bp, State.setTd_bp, reads]
    exact Nat.zero_le _

/-- Whatever a command does, what waits for an evaluation stays sound. -/
theorem Effect.waitingSound {s t : State} (e : Effect s t) (h : WaitingSound s) : WaitingSound t := by
  cases e with
  | quiet q => exact q.waitingSound h
  | frameEnd w q => exact takeEnd_waitingSound w _ (q.waitingSound h)
  | handOver x q => exact handOver_waitingSound x _ (q.waitingSound h)
  | timeout q => exact takePendingNow_waitingSound _ (q.waitingSound h)
  | driveLinkRead w x => exact driveLinkRead_waitingSound w x s h
  | expiry head rest held n =>
    obtain ⟨reads, idle⟩ := h
    rw [held] at reads idle
    refine ⟨Nat.le_of_succ_le reads, fun none => ?_⟩
    obtain ⟨nonempty, -⟩ := idle none
    exact absurd nonempty (List.cons_ne_nil _ _)
  | completion ev _ => exact completeEvaluation_waitingSound ev s
  | reset straps => exact ⟨Nat.zero_le _, fun _ => ⟨rfl, rfl⟩⟩

/-- A step runs one command on the state with the queue's rest, or idles. -/
theorem step_cases {s t : State} (h : step s = .next t) :
    t = s ∨ ∃ c rest, exec c { s with pending := rest } = .next t := by
  unfold step at h
  split at h
  · exact .inl (Host.Outcome.next.inj h).symm
  · next c rest _ => exact .inr ⟨c, rest, h⟩

/-- Settles O9: the effects of a command, each of which keeps what waits sound. -/
theorem stepsKeepWaitersBehindAnEvaluation : Obligations.StepsKeepWaitersBehindAnEvaluation := by
  intro s t h hstep
  rcases step_cases hstep with rfl | ⟨c, rest, hexec⟩
  · exact h
  · exact (exec_effect c _ t hexec).waitingSound h

end Sys2Proof.Machine
end

section
/-! PROOF. The limits in effect, the channel records and the Mismatch Unit stay in range. -/

namespace Sys2Proof.Machine

/-! ### Limits -/

/-- An entry that takes its pending update satisfies what both the entry and every clamped word satisfy. -/
theorem applyPending_keeps {α β : Type} {p : α → Prop} (clamp : β → α) (old : α) (update : Option β) (hold : p old)
    (hclamp : ∀ w, p (clamp w)) : p (applyPending clamp old update) := by
  cases update with
  | none => exact hold
  | some w => exact hclamp w

/-- A vector with one entry replaced satisfies entrywise what the old entries and the new one satisfy. -/
theorem forall_getElem_set {α : Type} {n : Nat} {p : Fin n → α → Prop} (v : Vector α n) (i : Fin n) (x : α)
    (hv : ∀ k : Fin n, p k v[k]) (hx : p i x) (k : Fin n) : p k (v.set i x)[k] := by
  simp only [Fin.getElem_fin, Vector.getElem_set]
  split
  · next e => exact Fin.ext e ▸ hx
  · exact hv k

theorem clampCoarse_value_le (w : Word) : (clampCoarse w).value ≤ Config.fullFraction := Nat.min_le_right _ _

theorem clampFine_le (w : Word) : clampFine w ≤ Config.fullFraction := Nat.min_le_right _ _

/-- One update in effect keeps every entry in its range. -/
theorem apply_inRange (t : EffectiveTable) (x : Update) (h : t.inRange) : (t.apply x).inRange := by
  obtain ⟨channels, modules, coolant, filter, fine, general⟩ := h
  cases x with
  | two e a b =>
    cases e with
    | channel c =>
      exact ⟨forall_getElem_set _ c _ channels (clampChannel_inRange a b), modules, coolant, filter, fine, general⟩
    | general g =>
      exact ⟨channels, modules, coolant, filter, fine, clampGeneral_inRange g a b _ general⟩
  | one e w =>
    have coarse (v : Vector CoarseEntry 16) (i : Fin 16) (hv : ∀ k : Fin 16, v[k].value ≤ Config.fullFraction)
        (k : Fin 16) : ((v.set i (clampCoarse w))[k]).value ≤ Config.fullFraction :=
      forall_getElem_set (p := fun _ x => x.value ≤ Config.fullFraction) v i _ hv (clampCoarse_value_le w) k
    cases e with
    | coarse curve i =>
      cases curve with
      | modules => exact ⟨channels, coarse _ i modules, coolant, filter, fine, general⟩
      | coolant => exact ⟨channels, modules, coarse _ i coolant, filter, fine, general⟩
      | filter => exact ⟨channels, modules, coolant, coarse _ i filter, fine, general⟩
    | fine f =>
      exact ⟨channels, modules, coolant, filter,
        forall_getElem_set (p := fun _ x => x ≤ Config.fullFraction) _ f _ fine (clampFine_le w), general⟩
    | summary n => exact ⟨channels, modules, coolant, filter, fine, general⟩

/-- The general entries' pending updates keep them in range. -/
theorem applyGeneral_inRange (u : Vector (Option (Word × Word)) 13) (x : General) (g : Fin 13) (h : x.inRange) :
    (applyGeneral u x g).inRange := by
  unfold applyGeneral
  split
  · exact h
  · exact clampGeneral_inRange g _ _ x h

/-- Every pending update in effect together keeps every entry in its range. -/
theorem applyAll_inRange (t : EffectiveTable) (p : PendingUpdates) (h : t.inRange) : (t.applyAll p).inRange := by
  obtain ⟨channels, modules, coolant, filter, fine, general⟩ := h
  have generals (l : List (Fin 13)) (x : General) (hx : x.inRange) : (l.foldl (applyGeneral p.general) x).inRange := by
    induction l generalizing x with
    | nil => exact hx
    | cons g l ih => exact ih _ (applyGeneral_inRange _ x g hx)
  refine ⟨fun c => ?_, fun i => ?_, fun i => ?_, fun i => ?_, fun f => ?_, generals _ _ general⟩ <;>
    simp only [EffectiveTable.applyAll, Fin.getElem_fin, Vector.getElem_ofFn]
  · exact applyPending_keeps _ _ _ (channels c) fun w => clampChannel_inRange w.1 w.2
  · exact applyPending_keeps (p := fun e : CoarseEntry => e.value ≤ _) _ _ _ (modules i) clampCoarse_value_le
  · exact applyPending_keeps (p := fun e : CoarseEntry => e.value ≤ _) _ _ _ (coolant i) clampCoarse_value_le
  · exact applyPending_keeps (p := fun e : CoarseEntry => e.value ≤ _) _ _ _ (filter i) clampCoarse_value_le
  · exact applyPending_keeps (p := fun e => e ≤ _) _ _ _ (fine f) clampFine_le

/-! ### The three facts together -/

/-- Limits in effect, channel records and Mismatch Unit are in range. -/
structure ReadingsSound (s : State) : Prop where
  limits : s.lt.effective.inRange
  channels : ChannelsSound s.td.channels
  mismatch : MismatchSound s.mu

theorem Quiet.readingsSound {s t : State} (h : Quiet s t) (hs : ReadingsSound s) : ReadingsSound t where
  limits := by rw [h.effective]; exact hs.limits
  channels := by rw [h.channels]; exact hs.channels
  mismatch := h.mismatch hs.mismatch

/-- Channel records made one by one from sound ones by an operation that keeps a record sound are sound. -/
theorem channelsSound_ofFn {channels : Vector ChannelRecord 30} (f : Fin 30 → ChannelRecord → ChannelRecord)
    (hf : ∀ c r, r.sound c → (f c r).sound c) (h : ChannelsSound channels) :
    ChannelsSound (Vector.ofFn fun c => f c channels[c]) := by
  intro c
  simp only [Fin.getElem_fin, Vector.getElem_ofFn]
  exact hf c _ (h c)

theorem takeEffectNow_readingsSound (t : EffectiveTable) (s : State) (ht : t.inRange) (h : ReadingsSound s) :
    ReadingsSound (takeEffectNow t s) where
  limits := by rw [takeEffectNow_lt]; exact ht
  channels := by
    rw [takeEffectNow_td]
    exact channelsSound_ofFn _ (fun c r => refreshRecordNow_sound c t.channels[c] r) h.channels
  mismatch := by rw [takeEffectNow_mu]; exact h.mismatch

theorem takePendingNow_readingsSound (s : State) (h : ReadingsSound s) : ReadingsSound (takePendingNow s) :=
  takeEffectNow_readingsSound _ _ (applyAll_inRange _ _ h.limits) ⟨h.limits, h.channels, h.mismatch⟩

theorem handOver_readingsSound (x : Update) (s : State) (h : ReadingsSound s) : ReadingsSound (handOver x s) := by
  unfold handOver
  split
  · exact takeEffectNow_readingsSound _ _ (apply_inRange _ x h.limits) h
  · exact ⟨h.limits, h.channels, h.mismatch⟩

theorem decodedChannels_sound (n : Snapshot) (s : State) (h : ChannelsSound s.td.channels) :
    ChannelsSound (decodedChannels n s) :=
  channelsSound_ofFn _ (fun c r => decodeRecord_sound c _ _ n r) h

theorem startEvaluation_readingsSound (n : Snapshot) (s : State) (h : ReadingsSound s) :
    ReadingsSound (startEvaluation n s) where
  limits := by rw [startEvaluation_lt]; exact applyAll_inRange _ _ h.limits
  channels := by
    rw [startEvaluation_td]
    refine decodedChannels_sound n _ ?_
    rw [takePendingAtStart_td]
    exact channelsSound_ofFn _ (fun c r => refreshRecord_sound c _ r) h.channels
  mismatch := by rw [startEvaluation_mu]; exact h.mismatch

theorem takeEnd_readingsSound (w : Word) (s : State) (h : ReadingsSound s) : ReadingsSound (takeEnd w s) := by
  have closed : ReadingsSound (s.setTd (s.td.closeFrame w s.msCounter)) := ⟨h.limits, h.channels, h.mismatch⟩
  unfold takeEnd placeSnapshot
  split
  · split
    · refine ⟨?_, h.channels, ?_⟩
      · rw [State.setTd_lt, overrunCheck_lt]; exact h.limits
      · rw [State.setTd_mu, overrunCheck_mu]; exact h.mismatch
    · exact startEvaluation_readingsSound _ _ closed
  · exact ⟨h.limits, h.channels, h.mismatch⟩

theorem driveLinkRead_readingsSound (w : Setpoint) (x : BitVec 4) (s : State) (h : ReadingsSound s) :
    ReadingsSound (driveLinkRead w x s) where
  limits := by rw [driveLinkRead_lt]; exact h.limits
  channels := by rw [driveLinkRead_td]; exact h.channels
  mismatch := by rw [driveLinkRead_mu]; exact h.mismatch

theorem adoptFractions_sound (ev : Evaluation) (channels : Vector ChannelRecord 30) (h : ChannelsSound channels) :
    ChannelsSound (adoptFractions ev channels) := by
  intro c
  simp only [adoptFractions, Fin.getElem_fin, Vector.getElem_ofFn]
  split
  · exact adoptFraction_sound c _ _ (h c)
  · exact h c

/-- The demands leave the Mismatch Unit as the outcomes made it, and an automatic restart keeps it sound. -/
theorem settleCompletion_readingsSound (ev : Evaluation) (s : State) (h : ReadingsSound s) :
    ReadingsSound (settleCompletion ev s) where
  limits := by rw [settleCompletion_lt]; exact h.limits
  channels := by rw [settleCompletion_td]; exact adoptFractions_sound ev _ h.channels
  mismatch := by
    refine (quiet_autoRestart _).mismatch ?_
    rw [tripDemands_mu, journalCompletion_mu]
    exact adoptMismatch_sound ev _ s.mu

theorem startPending_readingsSound (s : State) (h : ReadingsSound s) : ReadingsSound (startPending s) := by
  unfold startPending
  split
  · exact h
  · exact startEvaluation_readingsSound _ _ ⟨h.limits, h.channels, h.mismatch⟩

theorem completeEvaluation_readingsSound (ev : Evaluation) (s : State) (h : ReadingsSound s) :
    ReadingsSound (completeEvaluation ev s) := by
  obtain ⟨limits, channels, mismatch⟩ := settleCompletion_readingsSound ev s h
  refine startPending_readingsSound _ ⟨?_, ?_, ?_⟩ <;> simpa only [releaseReads_lt, releaseReads_td, releaseReads_mu,
    appendFrame_lt, appendFrame_td, appendFrame_mu]

/-! ### At reset -/

theorem general_reset_inRange : General.reset.inRange := by
  unfold General.inRange
  decide

theorem channelEntry_reset_inRange (c : Fin 30) : (ChannelEntry.reset c).inRange := by
  revert c
  unfold ChannelEntry.inRange
  decide

theorem effectiveTable_reset_inRange : EffectiveTable.reset.inRange := by
  refine ⟨fun c => ?_, fun i => ?_, fun i => ?_, fun i => ?_, fun f => ?_, general_reset_inRange⟩ <;>
    simp only [EffectiveTable.reset, Fin.getElem_fin, Vector.getElem_ofFn, Vector.getElem_replicate]
  · exact channelEntry_reset_inRange c
  all_goals exact Nat.le_refl _

theorem channelRecord_reset_sound (c : Fin 30) : ChannelRecord.reset.sound c := by
  obtain ⟨low, high, -⟩ := plausibleRange_spec c
  exact ⟨low, high, fun _ => ⟨rfl, rfl, rfl⟩, Nat.zero_le _, by decide⟩

theorem channels_reset_sound : ChannelsSound TelemetryDecoder.reset.channels := by
  intro c
  simp only [TelemetryDecoder.reset, Fin.getElem_fin, Vector.getElem_replicate]
  exact channelRecord_reset_sound c

theorem mismatchUnit_reset_sound : MismatchSound MismatchUnit.reset := by
  unfold MismatchSound
  decide

theorem holdInReset_readingsSound (straps : BitVec 8) (s : State) : ReadingsSound (holdInReset straps s) :=
  ⟨effectiveTable_reset_inRange, channels_reset_sound, mismatchUnit_reset_sound⟩

/-- Whatever a command does, limits, channel records and Mismatch Unit stay in range. -/
theorem Effect.readingsSound {s t : State} (e : Effect s t) (h : ReadingsSound s) : ReadingsSound t := by
  cases e with
  | quiet q => exact q.readingsSound h
  | frameEnd w q => exact takeEnd_readingsSound w _ (q.readingsSound h)
  | handOver x q => exact handOver_readingsSound x _ (q.readingsSound h)
  | timeout q => exact takePendingNow_readingsSound _ (q.readingsSound h)
  | driveLinkRead w x => exact driveLinkRead_readingsSound w x s h
  | expiry _ _ _ _ => exact ⟨h.limits, h.channels, h.mismatch⟩
  | completion ev _ => exact completeEvaluation_readingsSound ev s h
  | reset straps => exact holdInReset_readingsSound straps s

/-- Settles O11: the effects of a command, each of which keeps the three facts. -/
theorem stepsKeepLimitsAndReadingsInRange : Obligations.StepsKeepLimitsAndReadingsInRange := by
  intro s t limits channels mismatch hstep
  have key : ReadingsSound t := by
    have h : ReadingsSound s := ⟨limits, channels, mismatch⟩
    rcases step_cases hstep with rfl | ⟨c, rest, hexec⟩
    · exact h
    · exact (exec_effect c _ t hexec).readingsSound ⟨h.limits, h.channels, h.mismatch⟩
  exact ⟨key.limits, key.channels, key.mismatch⟩

end Sys2Proof.Machine
end

section
/-! PROOF. Telemetry frames: headers, data writes, orphans, frame ends and the frame timer. -/

namespace Sys2Proof.Machine

/-! ### Telemetry writes outside reset -/

/-- Outside reset a full-lane scanner write is stored and then taken. -/
theorem telemetryWrite_scanner (slot : Fin 32) (w : Word) (s : State) (h : s.operating) :
    telemetryWrite .ts 0xF slot w s =
      takeSlot slot w (s.forwardWrite (regionAddress s (slotOffset slot)) 0xF w) := by
  have hr : s.pins.resetAsserted = false := h
  unfold telemetryWrite
  dsimp only
  rw [hr]
  rfl

/-- A state whose memory is the old one with a word written holds that word, and every other byte as before. -/
theorem storesWord_of_writeWord {s t : State} (offset : Nat) (w : Word) (h : s.mem.wf = true)
    (ht : t.mem = s.mem.writeWord (regionAddress s offset) 0xF w) : StoresWord s t offset w := by
  unfold StoresWord
  rw [ht]
  exact ⟨Memory.readWord_writeWord _ _ _ h, Memory.readByte_writeWord_of_ne _ _ _ _ h⟩

theorem lowByte_toNat (w : Word) : (lowByte w).toNat = w.toNat % 256 := by
  unfold lowByte field
  rw [BitVec.toNat_ofNat]
  omega

theorem lowByte_eq_setWidth (w : Word) : lowByte w = w.setWidth 8 := by
  apply BitVec.eq_of_toNat_eq
  rw [lowByte_toNat, BitVec.toNat_setWidth]

/-! ### Headers -/

/-- The sequence check of a state that records like `s`: nothing without a gap, or a TELEMETRY_GAP record of it. -/
theorem sequenceCheck_journal {s u : State} (seq : BitVec 8) (td : u.td = s.td) (alike : SameRecording s u s) :
    (s.td.frameSeen = false ∨ seq - s.td.lastSeq - 1 = 0 →
      (sequenceCheck seq u).fj = s.fj ∧ (sequenceCheck seq u).cap = s.cap) ∧
    (s.td.frameSeen = true → seq - s.td.lastSeq - 1 ≠ 0 →
      (sequenceCheck seq u).fj =
        (streamRecord (eventRecord s .telemetryGap 0 (seq - s.td.lastSeq - 1).toNat) s).fj ∧
      (sequenceCheck seq u).cap =
        (streamRecord (eventRecord s .telemetryGap 0 (seq - s.td.lastSeq - 1).toNat) s).cap) := by
  have moment := alike.eventRecord .telemetryGap 0 (seq - s.td.lastSeq - 1).toNat
  obtain ⟨fj, cap, lt, -⟩ := alike
  unfold sequenceCheck sequenceGap
  rw [td, newRecord_eq, moment]
  refine ⟨fun noGap => ?_, fun seen gap => ?_⟩
  · rw [if_neg (fun h => noGap.elim (fun unseen => absurd (unseen.symm.trans h.1) (by decide)) h.2)]
    exact ⟨fj, cap⟩
  · rw [if_pos ⟨seen, gap⟩]
    exact streamRecord_congr u s _ fj lt cap

/-- A header writes the decoder, and hands the journal what its sequence check found. -/
theorem takeHeader_frame (w : Word) (s : State) : takeHeader w s = { s with
    td := s.td.openFrame (lowByte w)
    fj := (sequenceCheck (lowByte w) s).fj
    cap := (sequenceCheck (lowByte w) s).cap } := by
  apply State.eq_of_fields
  case h1 | h8 | h9 => rfl
  all_goals simp

theorem exec_frameHeaderWrite (w : Word) (s : State) (hop : s.operating) :
    exec (.frameHeaderWrite w) s = .next (takeHeader w (s.forwardWrite (regionAddress s 0x020) 0xF w)) :=
  congrArg Host.Outcome.next (telemetryWrite_scanner 0 w s hop)

/-- Settles O12: the header is stored, checked against the last sequence, and opens the frame. -/
theorem headerOpensAFrame : Obligations.HeaderOpensAFrame := by
  intro w s hop hwf
  have hexec := exec_frameHeaderWrite w s hop
  rw [takeHeader_frame, lowByte_eq_setWidth] at hexec
  refine ⟨_, hexec, rfl, storesWord_of_writeWord _ w hwf rfl, ?_⟩
  exact sequenceCheck_journal _ rfl ⟨rfl, rfl, rfl, ⟨rfl, rfl⟩, rfl, rfl⟩

/-! ### Data writes and orphans -/

/-- A data slot's number is one above its latch's index. -/
theorem takeSlot_data (k : Fin 30) (w : Word) (s : State) :
    takeSlot ⟨k.val + 1, by omega⟩ w s = takeData k w s := dif_pos ⟨by simp, by simp⟩

theorem slotOffset_data (k : Fin 30) : slotOffset ⟨k.val + 1, by omega⟩ = 0x021 + k.val := by
  simp only [slotOffset]
  omega

/-- A data slot write outside reset: its word is stored, and the decoder takes it. -/
theorem exec_dataSlotWrite (k : Fin 30) (w : Word) (s : State) (hop : s.operating) :
    exec (.dataSlotWrite ⟨k.val + 1, by omega⟩ w) s =
      .next (takeData k w (s.forwardWrite (regionAddress s (0x021 + k.val)) 0xF w)) := by
  show Host.Outcome.next (telemetryWrite .ts 0xF _ w s) = _
  rw [telemetryWrite_scanner _ w s hop, takeSlot_data, slotOffset_data]

/-- An end write outside reset: its word is stored, and the decoder takes it. -/
theorem exec_frameEnd (w : Word) (s : State) (hop : s.operating) :
    exec (.frameEnd w) s = .next (takeEnd w (s.forwardWrite (regionAddress s 0x03F) 0xF w)) :=
  congrArg Host.Outcome.next (telemetryWrite_scanner 31 w s hop)

theorem takeData_open (k : Fin 30) (w : Word) (s : State) (h : s.td.frameOpen = true) :
    takeData k w s = s.setTd (s.td.latch k w) := if_pos h

theorem takeData_orphan (k : Fin 30) (w : Word) (s : State) (h : s.td.frameOpen = false) :
    takeData k w s = s.setTd s.td.orphan := if_neg (by rw [h]; decide)

theorem takeEnd_orphan (w : Word) (s : State) (h : s.td.frameOpen = false) :
    takeEnd w s = s.setTd s.td.orphan := if_neg (by rw [h]; decide)

theorem takeEnd_open (w : Word) (s : State) (h : s.td.frameOpen = true) :
    takeEnd w s = placeSnapshot (s.td.snapshot w) (s.setTd (s.td.closeFrame w s.msCounter)) := if_pos h

/-- Settles O13: with a frame open a data write is latched, and with none it is an orphan, as an end write is. -/
theorem dataWritesLatchOrAreOrphans : Obligations.DataWritesLatchOrAreOrphans := by
  refine ⟨fun k w s hop hwf hopen => ?_, fun k w s hop hwf hclosed => ?_, fun w s hop hwf hclosed => ?_⟩
  · exact ⟨_, (exec_dataSlotWrite k w s hop).trans (congrArg _ (takeData_open k w _ hopen)), rfl,
      storesWord_of_writeWord _ w hwf rfl⟩
  · exact ⟨_, (exec_dataSlotWrite k w s hop).trans (congrArg _ (takeData_orphan k w _ hclosed)), rfl,
      storesWord_of_writeWord _ w hwf rfl⟩
  · exact ⟨_, (exec_frameEnd w s hop).trans (congrArg _ (takeEnd_orphan w _ hclosed)), rfl,
      storesWord_of_writeWord _ w hwf rfl⟩

/-! ### Frame ends -/

theorem countMatches_eq (d : TelemetryDecoder) (w : Word) :
    d.countMatches w = decide (d.marks.toList.countP id = w.toNat % 256) := by
  unfold TelemetryDecoder.countMatches markCount
  rw [lowByte_toNat]
  exact beq_eq_decide _ _

/-- The snapshot of a frame: all marks clear if its end count was wrong (R8, R9). -/
theorem snapshot_eq (d : TelemetryDecoder) (w : Word) : d.snapshot w = {
    seq := d.frameSeq
    words := d.latches
    marks := if d.marks.toList.countP id = w.toNat % 256 then d.marks else Vector.replicate 30 false } := by
  unfold TelemetryDecoder.snapshot
  simp only [countMatches_eq, decide_eq_true_eq]

/-- The decoder after a frame end: a wrong end count is counted (R8 to R11). -/
theorem closeFrame_eq (d : TelemetryDecoder) (w now : Word) : d.closeFrame w now = { d with
    frameOpen := false
    discarded := if d.marks.toList.countP id = w.toNat % 256 then d.discarded else min (d.discarded + 1) 255
    frameTimer := some now
    telemetryLost := false } := by
  unfold TelemetryDecoder.closeFrame countUp
  simp only [countMatches_eq, decide_eq_true_eq]

/-- A snapshot placed behind an evaluation is left pending, and what it replaces is handed to the journal. -/
theorem placeSnapshot_inFlight (n : Snapshot) (s : State) (h : s.cu.evaluation.isSome = true) :
    placeSnapshot n s = { s with
      td := { s.td with pendingSnapshot := some n }
      fj := (overrunCheck s).fj
      cap := (overrunCheck s).cap } := by
  unfold placeSnapshot
  rw [if_pos (show s.inFlight = true from h)]
  apply State.eq_of_fields
  case h1 | h8 | h9 => rfl
  all_goals simp

theorem placeSnapshot_idle (n : Snapshot) (s : State) (h : s.cu.evaluation = none) :
    placeSnapshot n s = startEvaluation n s := by
  refine if_neg ?_
  rw [State.inFlight, h]
  decide

/-- A frame end outside reset with a frame open: its word is stored, the frame is closed and its snapshot placed. -/
theorem exec_frameEnd_open (w : Word) (s : State) (hop : s.operating) (hopen : s.td.frameOpen = true) :
    exec (.frameEnd w) s = .next (placeSnapshot (s.td.snapshot w)
      ((s.forwardWrite (regionAddress s 0x03F) 0xF w).setTd (s.td.closeFrame w s.msCounter))) :=
  (exec_frameEnd w s hop).trans (congrArg Host.Outcome.next (takeEnd_open w _ hopen))

/-- The overrun check of a state that records like `s`: nothing, or a FRAME_OVERRUN record for the snapshot replaced. -/
theorem overrunCheck_journal {s u : State} (pending : u.td.pendingSnapshot = s.td.pendingSnapshot)
    (alike : SameRecording s u s) :
    (s.td.pendingSnapshot = none → (overrunCheck u).fj = s.fj ∧ (overrunCheck u).cap = s.cap) ∧
    (s.td.pendingSnapshot.isSome = true →
      (overrunCheck u).fj = (streamRecord (eventRecord s .frameOverrun 0 0) s).fj ∧
      (overrunCheck u).cap = (streamRecord (eventRecord s .frameOverrun 0 0) s).cap) := by
  have moment := alike.eventRecord .frameOverrun 0 0
  obtain ⟨fj, cap, lt, -⟩ := alike
  unfold overrunCheck
  rw [pending, newRecord_eq, moment]
  refine ⟨fun h => ?_, fun h => ?_⟩
  · rw [h]
    exact ⟨fj, cap⟩
  · rw [if_pos h]
    exact streamRecord_congr u s _ fj lt cap

/-- Settles O14: the frame is closed and its snapshot left pending, after the overrun check. -/
theorem frameEndBehindAnEvaluationIsPending : Obligations.FrameEndBehindAnEvaluationIsPending := by
  intro w s hop hwf hopen hev
  have hexec := (exec_frameEnd_open w s hop hopen).trans
    (congrArg Host.Outcome.next (placeSnapshot_inFlight _ _ (by exact hev)))
  rw [snapshot_eq, closeFrame_eq] at hexec
  refine ⟨_, hexec, rfl, storesWord_of_writeWord _ w hwf rfl, ?_⟩
  exact overrunCheck_journal rfl ⟨rfl, rfl, rfl, ⟨rfl, rfl⟩, rfl, rfl⟩

/-- Settles O15: the frame is closed, and with nothing in flight an evaluation starts from its snapshot. -/
theorem frameEndStartsAnEvaluation : Obligations.FrameEndStartsAnEvaluation := by
  intro w s hop hwf hopen hev
  have hexec := (exec_frameEnd_open w s hop hopen).trans
    (congrArg Host.Outcome.next (placeSnapshot_idle _ _ (by exact hev)))
  rw [snapshot_eq, closeFrame_eq] at hexec
  generalize Snapshot.mk _ _ _ = n at hexec
  generalize hu : State.setTd _ _ = u at hexec
  obtain ⟨ev, hflight, hstarted, hdecoded⟩ := startEvaluation_started n u
  have hframe := startEvaluation_frame n u
  rw [hflight] at hframe
  refine ⟨startEvaluation n u, n, ev, hexec, rfl, ?_, ?_, ?_, ?_⟩
  · rw [startEvaluation_lt]
    refine hframe.trans ?_
    rw [← hu]
    rfl
  · refine storesWord_of_writeWord _ w hwf ?_
    rw [startEvaluation_mem, ← hu]
    rfl
  · rw [← hu] at hdecoded ⊢
    exact hdecoded
  · rw [← hu] at hstarted ⊢
    exact hstarted

/-! ### The frame timer -/

theorem exec_frameTimeoutExpiry (s : State) (stamp : Word) (running : s.td.frameTimer = some stamp)
    (due : s.lt.effective.general.frameTimeout ≤ (s.msCounter - stamp).toNat) :
    exec .frameTimeoutExpiry s =
      .next (takePendingNow (lossDemand (s.setTd { s.td with frameTimer := none, telemetryLost := true }))) := by
  refine if_pos ?_
  unfold frameTimerDue
  rw [running]
  exact decide_eq_true due

theorem lossDemand_live (s : State) (h : s.sq.state.live) : lossDemand s = s.trippedOn .telemetryLoss := by
  rw [← tripDemand_live s .telemetryLoss h]
  unfold lossDemand
  cases hs : s.sq.state with
  | settle | run | mute => rfl
  | off | discharge | tripped => rw [hs] at h; exact h.elim

theorem lossDemand_notLive (s : State) (h : ¬ s.sq.state.live) : lossDemand s = s := by
  unfold lossDemand
  cases hs : s.sq.state with
  | settle | run | mute => exact absurd (hs ▸ trivial) h
  | off | discharge | tripped => rfl

theorem takePendingNow_lt (s : State) : (takePendingNow s).lt =
    { effective := s.lt.effective.applyAll s.lt.pendingSet, pendingSet := PendingUpdates.empty } :=
  takeEffectNow_lt _ _

/-- The pending updates that take effect outside an evaluation write the channel records, the limit table, the strike list,
and, with their DERATE closes, the journal and the capture. -/
theorem takePendingNow_frame (s : State) : takePendingNow s = { s with
    td := { s.td with channels := Vector.ofFn fun c =>
      refreshRecordNow (s.lt.effective.applyAll s.lt.pendingSet).channels[c] s.td.channels[c] }
    lt := { effective := s.lt.effective.applyAll s.lt.pendingSet, pendingSet := PendingUpdates.empty }
    am := { s.am with strikes := (strikesKept s.msCounter s.lt.effective.general
      (s.lt.effective.applyAll s.lt.pendingSet).general s.am.strikes) }
    fj := (takePendingNow s).fj
    cap := (takePendingNow s).cap } := by
  apply State.eq_of_fields
  case h1 => exact takeEffectNow_td _ _
  case h2 => exact takePendingNow_lt s
  case h6 => exact takeEffectNow_am _ _
  all_goals simp

/-- The demand of a frame timer's expiry trips a live sequencer and does nothing else; the decoder has no part in it. -/
theorem lossDemand_cases (s : State) : ∃ u : State,
    (s.sq.state.live → u = s.trippedOn .telemetryLoss) ∧ (¬ s.sq.state.live → u = s) ∧
    (∃ q c j k, u = { s with sq := q, cu := c, fj := j, cap := k }) ∧
    ∀ d : TelemetryDecoder, lossDemand (s.setTd d) = u.setTd d := by
  by_cases live : s.sq.state.live
  · exact ⟨_, fun _ => rfl, fun h => absurd live h, ⟨_, _, _, _, rfl⟩, fun d => lossDemand_live (s.setTd d) live⟩
  · exact ⟨_, fun h => absurd h live, fun _ => rfl, ⟨_, _, _, _, rfl⟩, fun d => lossDemand_notLive (s.setTd d) live⟩

/-- Settles O16: the demand trips a live sequencer, and then the pending updates take effect. -/
theorem frameTimeoutLosesTelemetry : Obligations.FrameTimeoutLosesTelemetry := by
  intro stamp s running due
  have hexec := exec_frameTimeoutExpiry s stamp running due
  obtain ⟨u, live, idle, ⟨q, c, j, k, hu⟩, hloss⟩ := lossDemand_cases s
  rw [hloss] at hexec
  generalize hd : ({ s.td with frameTimer := none, telemetryLost := true } : TelemetryDecoder) = d at hexec
  have hframe := takePendingNow_frame (u.setTd d)
  have hlt : (takePendingNow (u.setTd d)).lt =
      { effective := s.lt.effective.applyAll s.lt.pendingSet, pendingSet := PendingUpdates.empty } := by
    rw [takePendingNow_lt, hu]; rfl
  have hchannels : (takePendingNow (u.setTd d)).td.channels = Vector.ofFn fun c =>
      refreshRecordNow (s.lt.effective.applyAll s.lt.pendingSet).channels[c] s.td.channels[c] := by
    rw [hframe, hu, ← hd]; rfl
  refine ⟨_, u, hexec, ?_, live, idle, ?_, ?_, ?_, ?_⟩
  · rw [hlt, hchannels]
    refine hframe.trans ?_
    rw [takePendingNow_sq, takePendingNow_cu, hu, ← hd]
    rfl
  · rw [takePendingNow_sq]; rfl
  · rw [takePendingNow_cu]; rfl
  · rw [hlt, hchannels]
    exact refreshRecordNow_refreshed _ _
  · obtain ⟨hfj, hcap⟩ := takePendingNow_recorded (u.setTd d) _ (takePendingNow_lt _)
    have moment : SameRecording u { u.setTd d with lt := (takePendingNow (u.setTd d)).lt }
        { u with lt := (takePendingNow (u.setTd d)).lt } := ⟨rfl, rfl, rfl, ⟨rfl, rfl⟩, rfl, rfl⟩
    obtain ⟨hfj', hcap'⟩ := deratesClosed_congr u _ _ s.td.channels moment
    have hbefore : (u.setTd d).td.channels = s.td.channels := by rw [← hd]; rfl
    rw [hbefore] at hfj hcap
    exact ⟨hfj.trans hfj', hcap.trans hcap'⟩

end Sys2Proof.Machine
end

section
/-! PROOF. What decoding makes of one channel's reading. -/

namespace Sys2Proof.Machine

theorem rawField_eq_rawReading (e : ChannelEntry) (signed : Bool) (w : Word) :
    rawField e signed w = rawReading e signed w := by
  unfold rawField rawReading toSigned field
  cases signed <;> simp

theorem slotWord_data (n : Snapshot) (k : Fin 30) :
    n.slotWord (k.val + 1) = if n.marks[k] then some n.words[k] else none :=
  dif_pos ⟨Nat.le_add_left 1 k.val, k.isLt⟩

/-- The scaled value is the floor: the one integer whose multiple by the divisor is the last not above the product. -/
theorem scaledValue_eq_of_floor (e : ChannelEntry) (raw x : Int) (low : 2 ^ e.shift * x ≤ raw * e.scale)
    (high : raw * e.scale < 2 ^ e.shift * (x + 1)) : scaledValue e raw = x := by
  have hpos : (0 : Int) < 2 ^ e.shift := Int.pow_pos (by decide)
  unfold scaledValue
  apply le_antisymm
  · exact Int.lt_add_one_iff.mp (Int.ediv_lt_of_lt_mul hpos (by rwa [mul_comm (x + 1)]))
  · exact Int.le_ediv_of_mul_le hpos (by rwa [mul_comm x])

/-- An unwritten slot counts as a bad reading with the value held. -/
theorem decodeRecord_unwritten (c : Fin 30) (e : ChannelEntry) (fp : Nat) (n : Snapshot) (r : ChannelRecord)
    (present : r.present = true) (word : n.slotWord e.slot = none) :
    decodeRecord c e fp n r = badReading fp r r.value := by
  unfold decodeRecord
  rw [if_pos present, word]

/-- A written slot's reading is taken in range, and else clamped as a bad reading. -/
theorem decodeRecord_written (c : Fin 30) (e : ChannelEntry) (fp : Nat) (n : Snapshot) (r : ChannelRecord) (w : Word)
    (present : r.present = true) (word : n.slotWord e.slot = some w) :
    decodeRecord c e fp n r =
      if (plausibleRange c).1 ≤ scaledValue e (rawReading e r.signed w) ∧
          scaledValue e (rawReading e r.signed w) ≤ (plausibleRange c).2 then
        { r with value := scaledValue e (rawReading e r.signed w), faults := 0, failed := false }
      else badReading fp r
        (clampInt (plausibleRange c).1 (plausibleRange c).2 (scaledValue e (rawReading e r.signed w))) := by
  rw [← rawField_eq_rawReading]
  unfold decodeRecord
  rw [if_pos present, word]

theorem decodeRecord_absent (c : Fin 30) (e : ChannelEntry) (fp : Nat) (n : Snapshot) (r : ChannelRecord)
    (absent : r.present = false) : decodeRecord c e fp n r = r := by
  refine if_neg ?_
  rw [absent]
  decide

/-- Settles O17: an absent channel, and of a present one an unwritten slot and a value within, below and above its range. -/
theorem decodingGivesTheReading : Obligations.DecodingGivesTheReading := by
  refine ⟨decodeRecord_absent, fun c e fp n r k x lo hi present slot range low high => ?_⟩
  have hrange : plausibleRange c = (lo, hi) := range.symm
  obtain ⟨-, -, hle⟩ := plausibleRange_spec c
  rw [hrange] at hle
  have hword := slotWord_data n k
  rw [← slot] at hword
  have written (mark : n.marks[k] = true) := decodeRecord_written c e fp n r n.words[k] present
    (by rw [hword, if_pos mark])
  rw [scaledValue_eq_of_floor e _ x low high, hrange] at written
  refine ⟨fun mark => ?_, fun mark above below => ?_, fun mark below => ?_, fun mark above => ?_⟩
  · exact decodeRecord_unwritten c e fp n r present (by rw [hword, mark]; rfl)
  · rw [written mark, if_pos ⟨above, below⟩]
  · have hclamp : clampInt lo hi x = lo := by unfold clampInt; omega
    rw [written mark, if_neg (fun h => by omega), hclamp]
    rfl
  · have hclamp : clampInt lo hi x = hi := by unfold clampInt; omega
    rw [written mark, if_neg (fun h => by omega), hclamp]
    rfl

end Sys2Proof.Machine
end

section
/-! PROOF. What a completion leaves in the units, and what it hands to the held reads and to a pending snapshot. -/

namespace Sys2Proof.Machine

/-! ### The Mismatch Unit after the demands and the automatic restart -/

/-- Demands that meet a TRIPPED sequencer leave it TRIPPED. -/
theorem tripDemands_staysTripped (ks : List TripKind) (s : State) (h : s.sq.state = .tripped) :
    (tripDemands ks s).sq.state = .tripped := by
  rw [tripDemands_tripped s ks (.inl h)]
  exact h

/-- Only demands that met TRIPPED are followed by TRIPPED. -/
theorem tripped_before_demands (ks : List TripKind) (s : State) (h : (tripDemands ks s).sq.state = .tripped) :
    s.sq.state = .tripped := by
  rw [tripDemands_sq] at h
  by_contra hs
  exact enterDemands_notTripped ks s hs h

/-- A completion leaves the Mismatch Unit as the outcomes made it, TRIPPED standing if it stood, or restarted from there, in
SETTLE after TRIPPED. -/
theorem settleCompletion_mismatch (ev : Evaluation) (s : State) :
    ((settleCompletion ev s).mu = adoptMismatch ev (s.sq.state == .run) s.mu ∧
      (s.sq.state = .tripped → (settleCompletion ev s).sq.state = .tripped)) ∨
    ((settleCompletion ev s).mu = (adoptMismatch ev (s.sq.state == .run) s.mu).restarted ∧
      s.sq.state = .tripped ∧ (settleCompletion ev s).sq.state = .settle) := by
  unfold settleCompletion
  rcases autoRestart_cases (tripDemands (demandsOf ev s) (journalCompletion ev s)) with h | ⟨tripped, h⟩ <;> rw [h]
  · refine .inl ⟨by simp, fun hs => tripDemands_staysTripped _ _ ?_⟩
    rw [journalCompletion_sq]
    exact hs
  · refine .inr ⟨by simp, ?_, ?_⟩
    · have found := tripped_before_demands _ _ tripped
      rwa [journalCompletion_sq] at found
    · rw [performRestart_sq]
      rfl

/-- What a restart makes of a Mismatch Unit, written out. -/
theorem restarted_eq (u : MismatchUnit) : u.restarted = {
    v := 4095
    foldbackOpen := false
    outputCounter := 0
    moduleCounters := Vector.replicate 8 0
    admission := u.admission.map fun a => { a with mismatch := false, gated := a.gated && (a.hot || a.sensor) } } := by
  rw [← restarted_admission]
  rfl

/-! ### The next evaluation -/

/-- With no snapshot pending, a completion leaves the channel records with the fractions adopted and the limits as they
stand, and nothing is in flight. -/
theorem completeEvaluation_nonePending (ev : Evaluation) (s : State) (h : s.td.pendingSnapshot = none) :
    (completeEvaluation ev s).td = { s.td with channels := adoptFractions ev s.td.channels } ∧
    (completeEvaluation ev s).lt = s.lt ∧ (completeEvaluation ev s).am = s.am ∧
    (completeEvaluation ev s).cu.evaluation = none := by
  obtain ⟨u, hu, td, lt, -, idle, am, -⟩ := completeEvaluation_released ev s
  rw [hu, startPending_none u (by rw [td]; exact h)]
  exact ⟨td, lt, am, idle⟩

/-- A pending snapshot begins the next evaluation on the records with the fractions adopted. -/
theorem completeEvaluation_somePending (ev : Evaluation) (s : State) (n : Snapshot)
    (h : s.td.pendingSnapshot = some n) :
    (completeEvaluation ev s).lt =
      { effective := s.lt.effective.applyAll s.lt.pendingSet, pendingSet := PendingUpdates.empty } ∧
    (completeEvaluation ev s).am = { s.am with strikes := (strikesKept s.msCounter s.lt.effective.general
      (s.lt.effective.applyAll s.lt.pendingSet).general s.am.strikes) } ∧
    (completeEvaluation ev s).td =
      { s.td with channels := (completeEvaluation ev s).td.channels, pendingSnapshot := none } ∧
    ∃ next, (completeEvaluation ev s).cu.evaluation = some next ∧
      next.StartedFrom n (completeEvaluation ev s).lt.effective (completeEvaluation ev s).td.channels
        (completeEvaluation ev s).du (completeEvaluation ev s).cu.e ∧
      DecodedAtStart (completeEvaluation ev s).lt.effective n (adoptFractions ev s.td.channels)
        (completeEvaluation ev s).td.channels next.channelEvents := by
  obtain ⟨u, hu, td, lt, -, -, am, -, ms, -⟩ := completeEvaluation_released ev s
  have begun := startPending_some u n (by rw [td]; exact h)
  rw [hu, begun]
  generalize hv : u.setTd { u.td with pendingSnapshot := none } = v
  obtain ⟨next, inFlight, started, decoded⟩ := startEvaluation_started n v
  have hlt : v.lt = s.lt := by rw [← hv]; exact lt
  have ham : v.am = s.am := by rw [← hv]; exact am
  have hms : v.msCounter = s.msCounter := by rw [← hv]; exact ms
  have htd : v.td = { s.td with channels := adoptFractions ev s.td.channels, pendingSnapshot := none } := by
    rw [← hv, State.setTd_td, td]
  refine ⟨?_, ?_, ?_, next, inFlight, ?_, ?_⟩
  · rw [startEvaluation_lt, hlt]
  · rw [startEvaluation_am, hlt, ham, hms]
    rfl
  · rw [startEvaluation_td, htd]
  · rw [startEvaluation_du, startEvaluation_cu]
    exact started
  · rw [htd] at decoded
    exact decoded

/-- Settles O22: the outcomes are adopted, an automatic restart follows them, and the pending snapshot is decoded last. -/
theorem completionAppliesTheOutcomes : Obligations.CompletionAppliesTheOutcomes := by
  intro ev s hev
  obtain ⟨hsq, -, hmu, hdu⟩ := completeEvaluation_settled s ev
  refine ⟨completeEvaluation ev s, adoptMismatch ev (s.sq.state == .run) s.mu, adoptFractions ev s.td.channels,
    exec_evaluationCompletion s ev hev, hdu, adoptMismatch_completed ev s, ?_, ?_, adoptFractions_adopted ev _, ?_, ?_⟩
  · rw [hsq, hmu]
    rcases settleCompletion_mismatch ev s with ⟨outcomes, -⟩ | ⟨-, tripped, settle⟩
    · exact fun _ => outcomes
    · rw [settle]
      exact fun h => absurd h (by simp [tripped])
  · rw [hsq, hmu]
    rcases settleCompletion_mismatch ev s with ⟨-, stays⟩ | ⟨restarted, -, -⟩
    · exact fun tripped left => absurd (stays tripped) left
    · exact fun _ _ => restarted.trans (restarted_eq _)
  · intro h
    obtain ⟨td, -⟩ := completeEvaluation_nonePending ev s h
    rw [td]
  · intro n h
    obtain ⟨-, -, -, next, -, -, decoded⟩ := completeEvaluation_somePending ev s n h
    exact ⟨_, decoded⟩

/-- The replies of a completion: the held reads, in order of arrival, with the words it leaves. -/
theorem completeEvaluation_replies (ev : Evaluation) (s : State) :
    (completeEvaluation ev s).replies = s.replies ++ s.bp.heldReads.map fun h =>
      { master := .dl, transaction := h.transaction, data := substitutedWord h.word (completeEvaluation ev s) } := by
  obtain ⟨u, hu, -, -, -, -, -, -, -, -, -, -, replies⟩ := completeEvaluation_released ev s
  rw [hu]
  simp only [startPending_substitutedWord, startPending_replies, replies]

theorem completeEvaluation_bp (ev : Evaluation) (s : State) :
    (completeEvaluation ev s).bp = { s.bp with heldReads := [] } := by
  obtain ⟨u, hu, -, -, -, -, -, bp, -⟩ := completeEvaluation_released ev s
  rw [hu, startPending_bp, bp]

/-- Where the window stands every strike is kept. -/
theorem strikesKept_self (now : Word) (g : General) (l : List Strike) : strikesKept now g g l = l :=
  if_neg (Nat.lt_irrefl _)

/-- The decoder but for its channel records, and the strikes that the window in effect keeps, after a completion. -/
theorem completeEvaluation_decoder (ev : Evaluation) (s : State) :
    (completeEvaluation ev s).td =
      { s.td with channels := (completeEvaluation ev s).td.channels, pendingSnapshot := none } ∧
    (completeEvaluation ev s).am = { s.am with strikes := (strikesKept s.msCounter s.lt.effective.general
      (completeEvaluation ev s).lt.effective.general s.am.strikes) } := by
  cases h : s.td.pendingSnapshot with
  | none =>
    obtain ⟨td, lt, am, -⟩ := completeEvaluation_nonePending ev s h
    rw [td, lt, am, strikesKept_self, ← h]
    exact ⟨rfl, rfl⟩
  | some n =>
    obtain ⟨lt, am, td, -⟩ := completeEvaluation_somePending ev s n h
    rw [lt]
    exact ⟨td, am⟩

/-- Settles O25: the reads are released with the words left, and the pending snapshot begins the next evaluation. -/
theorem completionReleasesReadsAndSnapshot : Obligations.CompletionReleasesReadsAndSnapshot := by
  intro ev s hev
  obtain ⟨htd, ham⟩ := completeEvaluation_decoder ev s
  refine ⟨completeEvaluation ev s, adoptFractions ev s.td.channels, exec_evaluationCompletion s ev hev, ?_,
    adoptFractions_adopted ev _, ?_, ?_⟩
  · apply State.eq_of_fields
    case h1 => exact htd
    case h6 => exact ham
    case h10 => exact completeEvaluation_bp ev s
    case h14 => exact completeEvaluation_replies ev s
    all_goals simp
  · intro h
    obtain ⟨td, lt, -, idle⟩ := completeEvaluation_nonePending ev s h
    exact ⟨idle, lt, by rw [td]⟩
  · intro n h
    obtain ⟨lt, -, -, next⟩ := completeEvaluation_somePending ev s n h
    exact ⟨lt, next⟩

end Sys2Proof.Machine
end

section
/-! PROOF. The summary word and its source conditions, the output lines, and the sensor conditions. -/

namespace Sys2Proof.Machine

/-! ### The summary word -/

/-- A bit of words joined by or is set where it was or some word sets it. -/
theorem getLsbD_foldl_or {α : Type} (f : α → Word) (l : List α) (w : Word) (b : Nat) :
    (l.foldl (fun v a => v ||| f a) w).getLsbD b = (w.getLsbD b || l.any fun a => (f a).getLsbD b) := by
  induction l generalizing w with
  | nil => simp
  | cons a l ih => rw [List.foldl_cons, ih, BitVec.getLsbD_or, List.any_cons, Bool.or_assoc]

/-- A single bit shifted into place sets its place alone. -/
theorem getLsbD_one_shiftLeft (i b : Fin 32) : ((1#32) <<< i.val).getLsbD b.val = decide (i = b) := by
  revert i b
  decide

/-- A source sets the bit its map word names, when it is mapped and has the condition of its sense. -/
theorem getLsbD_sourceBits (s : State) (n b : Fin 32) :
    (sourceBits s n).getLsbD b.val = true ↔ s.lt.effective.summary[n].mapped = true ∧
      s.lt.effective.summary[n].bit = b ∧ sourceCondition s n = s.lt.effective.summary[n].sense := by
  unfold sourceBits
  dsimp only
  split
  · next h =>
    rw [Bool.and_eq_true, beq_iff_eq] at h
    rw [getLsbD_one_shiftLeft, decide_eq_true_eq]
    obtain ⟨mapped, sense⟩ := h
    exact ⟨fun e => ⟨mapped, e, sense⟩, fun ⟨_, e, _⟩ => e⟩
  · next h =>
    rw [Bool.and_eq_true, beq_iff_eq] at h
    have clear : (0 : Word).getLsbD b.val = false := BitVec.getLsbD_zero
    rw [clear]
    exact ⟨nofun, fun ⟨mapped, _, sense⟩ => absurd ⟨mapped, sense⟩ h⟩

theorem getLsbD_summaryWord (s : State) (b : Fin 32) :
    (summaryWord s).getLsbD b.val = true ↔ ∃ n : Fin 32, s.lt.effective.summary[n].mapped = true ∧
      s.lt.effective.summary[n].bit = b ∧ sourceCondition s n = s.lt.effective.summary[n].sense := by
  unfold summaryWord
  have clear : (0 : Word).getLsbD b.val = false := BitVec.getLsbD_zero
  rw [getLsbD_foldl_or, clear, Bool.false_or, List.any_eq_true]
  exact exists_congr fun n => by rw [getLsbD_sourceBits, and_iff_right (List.mem_finRange n)]

/-! ### Source conditions -/

theorem sourceCondition_gated (s : State) (m : Fin 8) :
    sourceCondition s ⟨8 + m.val, by omega⟩ = s.mu.admission[m].gated := by
  revert m
  simp [Fin.forall_fin_succ, sourceCondition]

theorem sourceCondition_ceiling (s : State) (m : Fin 8) :
    sourceCondition s ⟨16 + m.val, by omega⟩ = true ↔ s.cu.cm[m] < 4095 := by
  revert m
  simp [Fin.forall_fin_succ, sourceCondition, Config.fullDrive]

theorem holds_iff (q : Sequencer) (k : TripKind) : q.holds k = true ↔ q.primary = some k ∨ k ∈ q.secondary := by
  simp [Sequencer.holds]

/-! ### Lines -/

theorem muteLine_iff (s : State) : s.muteLine = true ↔ s.pins.resetAsserted = true ∨ s.sq.state ≠ .run := by
  simp [State.muteLine]

theorem supplyEnable_iff (s : State) : s.supplyEnable = true ↔
    s.pins.resetAsserted = false ∧ s.sq.state ≠ .off ∧ s.sq.state ≠ .tripped := by
  simp [State.supplyEnable, and_assoc]

theorem attentionLine_iff (s : State) :
    s.attentionLine = true ↔ s.pins.resetAsserted = false ∧ s.fj.attention = true := by
  simp [State.attentionLine]

/-! ### Sensor conditions -/

theorem usable_iff (r : ChannelRecord) : r.usable = true ↔ r.present = true ∧ r.failed = false := by
  simp [ChannelRecord.usable]

theorem missing_iff (r : ChannelRecord) :
    r.missing = true ↔ r.required = true ∧ (r.present = false ∨ r.failed = true) := by
  unfold ChannelRecord.missing ChannelRecord.usable
  cases r.required <;> cases r.present <;> cases r.failed <;> decide

/-- The sensor condition is a global channel missing: OUTF, OUTR, CLIN, CLOUT, FILT or FLOW. -/
theorem sensorCondition_iff (channels : Vector ChannelRecord 30) : sensorCondition channels = true ↔
    ∃ c : Fin 30, (c = 16 ∨ c = 17 ∨ c = 26 ∨ c = 27 ∨ c = 28 ∨ c = 29) ∧ channels[c].missing = true := by
  simp only [sensorCondition, Bool.or_eq_true, outf, outr, clin, clout, filt, flow, or_and_right, exists_or,
    exists_eq_left, or_assoc]

/-- Cause SENSOR of a module is one of its three channels missing: FWD, RFL or HSK. -/
theorem sensorCause_iff (channels : Vector ChannelRecord 30) (m : Fin 8) : sensorCause channels m = true ↔
    ∃ c : Fin 30, (c.val = m.val ∨ c.val = 8 + m.val ∨ c.val = 18 + m.val) ∧ channels[c].missing = true := by
  have hc (c : Fin 30) : (c.val = m.val ∨ c.val = 8 + m.val ∨ c.val = 18 + m.val) ↔
      (c = fwdChannel m ∨ c = rflChannel m ∨ c = hskChannel m) := by
    simp only [Fin.ext_iff, fwdChannel, rflChannel, hskChannel]
  simp only [hc, sensorCause, Bool.or_eq_true, or_and_right, exists_or, exists_eq_left, or_assoc]

/-- Settles O56: the summary word by its sources, each source by its condition, and the conditions of channels. -/
theorem summaryBitsCollectTheirSources : Obligations.SummaryBitsCollectTheirSources := by
  intro s
  refine ⟨getLsbD_summaryWord s, ?_, ?_, ?_, ?_, ?_, ?_, rfl, rfl,
    fun m => ⟨sourceCondition_gated s m, sourceCondition_ceiling s m⟩, holds_iff s.sq .arcLockout, rfl, ?_, ?_,
    supplyEnable_iff s, rfl, rfl, rfl, muteLine_iff s, supplyEnable_iff s, attentionLine_iff s,
    fun c => usable_iff _, ?_, fun m => ?_⟩
  · exact beq_iff_eq
  · exact beq_iff_eq
  · exact beq_iff_eq
  · exact beq_iff_eq
  · exact decide_eq_true_iff
  · exact decide_eq_true_iff
  · exact beq_iff_eq
  · simp [sourceCondition]
  · simp only [sensorCondition_iff, missing_iff]
  · simp only [sensorCause_iff, missing_iff]

end Sys2Proof.Machine
end

section
/-! PROOF. The standing facts and the registers right after reset release. -/

namespace Sys2Proof.Machine

theorem driveBounded_reset : DriveBounded State.reset := by
  unfold DriveBounded
  decide

theorem holderSound_reset : HolderSound Sequencer.reset := by
  unfold HolderSound
  decide

theorem timersSound_reset : TimersSound Sequencer.reset := by
  unfold TimersSound
  decide

/-- An empty journal with empty latches is sound. -/
theorem journalSound_reset : JournalSound FaultJournal.reset := by
  refine ⟨Nat.zero_le _, List.Pairwise.nil, fun _ h => absurd h List.not_mem_nil, fun m l hl => ?_⟩
  simp [FaultJournal.reset] at hl

/-- The capture at reset is the one an arming with the empty pattern sizes: records of one word. -/
theorem captureSound_reset : CaptureSound CaptureUnit.reset := by
  have hsize : (patternChannels CaptureUnit.reset.pattern).length = 0 := by decide
  have hcapacity : CaptureUnit.reset.capacity = Config.captureWords / 1 := (Nat.div_one _).symm
  refine ⟨by rw [hsize]; rfl, hcapacity, Nat.zero_le _, fun _ h => absurd h List.not_mem_nil, Nat.zero_le _, Nat.le_refl _, nofun, nofun, nofun,
    fun _ => ⟨rfl, rfl⟩, Nat.le_refl _, Nat.le_refl _⟩

theorem arcInputsSound_reset : ArcInputsSound State.reset := by
  unfold ArcInputsSound
  decide

theorem strikesSound_reset : StrikesSound State.reset := ⟨Nat.zero_le _, nofun⟩

/-- Settles O3: each standing fact by its lemma at reset, and each register by the reset values. -/
theorem standingFactsAtReset : Obligations.StandingFactsAtReset := by
  refine ⟨rfl, driveBounded_reset, holderSound_reset, timersSound_reset, journalSound_reset, captureSound_reset,
    ⟨Nat.zero_le _, fun _ => ⟨rfl, rfl⟩⟩, arcInputsSound_reset, strikesSound_reset, channels_reset_sound,
    mismatchUnit_reset_sound, effectiveTable_reset_inRange, rfl, fun c => ?_, fun c _ _ => ?_, fun c => ?_, fun i => ?_,
    fun f => ?_, fun n => ?_, rfl, rfl, rfl, rfl, rfl, rfl, rfl, rfl, rfl, rfl, rfl⟩ <;>
    simp only [State.reset, TelemetryDecoder.reset, LimitTable.reset, EffectiveTable.reset, Fin.getElem_fin,
      Vector.getElem_ofFn, Vector.getElem_replicate]
  · rfl
  · exact ⟨rfl, rfl⟩
  · rfl
  · exact ⟨rfl, rfl, rfl⟩
  · rfl

end Sys2Proof.Machine
end

section
/-! PROOF. The step of a curve at a temperature (R28, R29), and the Derating Unit's tests on the readings (R35, R37, R39,
R40). -/

namespace Sys2Proof.Machine

/-! ### The step of a curve -/

theorem lookupIndex_below (d : Int) (below : d < 0) : lookupIndex d = (0, 0) := if_pos below

theorem lookupIndex_above (d : Int) (above : 1280 ≤ d) : lookupIndex d = (15, 7) := by
  unfold lookupIndex
  rw [if_neg (by omega), dif_neg (by omega)]

/-- Within the curve's span, the coarse index is the step of 8.0 degrees, the fine one the step of 1.0 degree in it. -/
theorem lookupIndex_within (d : Int) (i : Fin 16) (j : Fin 8) (low : 0 ≤ d) (high : d < 1280)
    (coarse : (i.val : Int) = d / 80) (fine : (j.val : Int) = (d - 80 * i.val) / 10) : lookupIndex d = (i, j) := by
  unfold lookupIndex
  rw [if_neg (by omega), dif_pos high]
  apply Prod.ext <;> apply Fin.ext <;> dsimp only <;> omega

/-- At the coarse and fine index of the temperature, a final entry gives its value and a refined one its fine entry. -/
theorem lookup_of_index (t : EffectiveTable) (curve : Curve) (temperature : Int) (i : Fin 16) (j : Fin 8)
    (index : lookupIndex (temperature - t.base curve) = (i, j)) : lookup t curve temperature =
      if (t.curve curve)[i].refined then t.fine[8 * (t.curve curve)[i].block.val + j.val]'(by omega)
      else (t.curve curve)[i].value := by
  simp only [lookup, index, fineIndex, Fin.getElem_fin]

/-- Settles O18: the index below the base, within the curve's span and past its end. -/
theorem lookupTakesTheStepOfTheCurve : Obligations.LookupTakesTheStepOfTheCurve := by
  intro t curve temperature i j step
  apply lookup_of_index
  obtain ⟨below, rfl, rfl⟩ | ⟨low, high, coarse, fine⟩ | ⟨above, rfl, rfl⟩ := step
  · exact lookupIndex_below _ below
  · exact lookupIndex_within _ i j low high coarse fine
  · exact lookupIndex_above _ above

/-! ### The hot flags -/

/-- A module turns hot at its trip level, and stays hot down to THYST below it (R35). -/
theorem newHot_iff (t : EffectiveTable) (channels : Vector ChannelRecord 30) (hot : Vector Bool 8) (m : Fin 8) :
    newHot t channels hot m = true ↔ channels[hskChannel m].usable = true ∧
      ((hot[m] = false ∧ t.channels[hskChannel m].trip ≤ channels[hskChannel m].value) ∨
        (hot[m] = true ∧ t.channels[hskChannel m].trip - t.general.thyst ≤ channels[hskChannel m].value)) := by
  unfold newHot
  cases hot[m] <;> simp

/-! ### The thermal condition -/

theorem overTrip_iff (t : EffectiveTable) (channels : Vector ChannelRecord 30) (c : Fin 30) :
    overTrip t channels c = true ↔ channels[c].usable = true ∧ t.channels[c].trip ≤ channels[c].value := by
  simp [overTrip]

theorem overRelease_iff (t : EffectiveTable) (channels : Vector ChannelRecord 30) (c : Fin 30) :
    overRelease t channels c = true ↔
      channels[c].usable = true ∧ t.channels[c].trip - t.general.thyst ≤ channels[c].value := by
  simp [overRelease]

/-- A test met by CLIN, CLOUT or FILT is met by some channel of that group. -/
theorem exists_thermalGroup_iff (p : Fin 30 → Bool) : (p clin || p clout || p filt) = true ↔
    ∃ c : Fin 30, (c = 26 ∨ c = 27 ∨ c = 28) ∧ p c = true := by
  simp only [Bool.or_eq_true, clin, clout, filt, or_and_right, exists_or, exists_eq_left, or_assoc]

/-- The thermal condition becomes true where a usable channel of the group stands at its trip level or above (R37). -/
theorem newThermal_of_clear (t : EffectiveTable) (channels : Vector ChannelRecord 30) :
    newThermal t channels false = true ↔ ∃ c : Fin 30, (c = 26 ∨ c = 27 ∨ c = 28) ∧
      channels[c].usable = true ∧ t.channels[c].trip ≤ channels[c].value := by
  simp only [← overTrip_iff]
  exact exists_thermalGroup_iff (overTrip t channels)

/-- The thermal condition stays true where a usable channel of the group stands at its release temperature or above. -/
theorem newThermal_of_set (t : EffectiveTable) (channels : Vector ChannelRecord 30) :
    newThermal t channels true = true ↔ ∃ c : Fin 30, (c = 26 ∨ c = 27 ∨ c = 28) ∧
      channels[c].usable = true ∧ t.channels[c].trip - t.general.thyst ≤ channels[c].value := by
  simp only [← overRelease_iff]
  exact exists_thermalGroup_iff (overRelease t channels)

/-- The thermal condition clears where every usable channel of the group stands below its release temperature (R37). -/
theorem newThermal_cleared_iff (t : EffectiveTable) (channels : Vector ChannelRecord 30) :
    newThermal t channels true = false ↔ ∀ c : Fin 30, (c = 26 ∨ c = 27 ∨ c = 28) →
      channels[c].usable = true → channels[c].value < t.channels[c].trip - t.general.thyst := by
  rw [← Bool.not_eq_true, newThermal_of_set]
  push Not
  rfl

/-! ### The flow counter and the cooling condition -/

/-- A usable flow below FLOW_MIN counts up, saturating at 255 (R39). -/
theorem newFlowCounter_low (t : EffectiveTable) (channels : Vector ChannelRecord 30) (counter : Nat)
    (usable : channels[flow].usable = true) (low : channels[flow].value < t.general.flowMin) :
    newFlowCounter t channels counter = min (counter + 1) 255 := if_pos ⟨usable, low⟩

theorem newFlowCounter_enough (t : EffectiveTable) (channels : Vector ChannelRecord 30) (counter : Nat)
    (enough : (t.general.flowMin : Int) ≤ channels[flow].value) : newFlowCounter t channels counter = 0 :=
  if_neg fun ⟨_, low⟩ => not_lt.mpr enough low

theorem newFlowCounter_unusable (t : EffectiveTable) (channels : Vector ChannelRecord 30) (counter : Nat)
    (unusable : channels[flow].usable = false) : newFlowCounter t channels counter = 0 :=
  if_neg fun ⟨usable, _⟩ => Bool.false_ne_true (unusable.symm.trans usable)

/-- Without a usable flow reading there is no cooling condition, whatever stood before (R40). -/
theorem newCooling_unusable (t : EffectiveTable) (channels : Vector ChannelRecord 30) (before : Bool) (n : Nat)
    (unusable : channels[flow].usable = false) : newCooling t channels before n = false := by
  unfold newCooling
  rw [unusable, Bool.false_and]

/-- The cooling condition becomes true at FLOW_FRAMES counted evaluations (R40). -/
theorem newCooling_of_clear (t : EffectiveTable) (channels : Vector ChannelRecord 30) (n : Nat)
    (usable : channels[flow].usable = true) : newCooling t channels false n = true ↔ t.general.flowFrames ≤ n := by
  rw [newCooling, usable, Bool.true_and, if_neg Bool.false_ne_true, decide_eq_true_iff]

/-- The cooling condition stays true while the flow is below FLOW_MIN + FLOW_HYST (R40). -/
theorem newCooling_of_set (t : EffectiveTable) (channels : Vector ChannelRecord 30) (n : Nat)
    (usable : channels[flow].usable = true) : newCooling t channels true n = true ↔
      channels[flow].value < (t.general.flowMin : Int) + t.general.flowHyst := by
  rw [newCooling, usable, Bool.true_and, if_pos rfl, decide_eq_true_iff, Int.natCast_add]

/-- Settles O19: each test by its rule, the hot flags and the thermal condition by their hysteresis, and the flow counter
and the cooling condition by whether FLOW is usable. -/
theorem heatAndFlowConditionsFollowTheReadings : Obligations.HeatAndFlowConditionsFollowTheReadings :=
  ⟨⟨newHot_iff, fun t channels => ⟨newThermal_of_clear t channels, newThermal_cleared_iff t channels⟩⟩,
    fun t channels counter n => ⟨newFlowCounter_low t channels counter,
      fun _ enough => newFlowCounter_enough t channels counter enough,
      fun unusable => ⟨newFlowCounter_unusable t channels counter unusable,
        newCooling_unusable t channels false n unusable, newCooling_unusable t channels true n unusable⟩,
      newCooling_of_clear t channels n, newCooling_of_set t channels n⟩⟩

end Sys2Proof.Machine
end

section
/-! PROOF. What the Mismatch Unit makes of the power readings: the outcome for V (R49, R50), the output trip test (R56) and
the module tests (R58). -/

namespace Sys2Proof.Machine

/-! ### The outcome for V -/

/-- The release level lies at or below PRLIM (R49). -/
theorem prrel_le_prlim (g : General) : prrel g ≤ g.prlim := Nat.sub_le _ _

/-- Above the limit, the share of E that PRLIM is of PR is rounded down to a number below E (R50). -/
theorem fold_share_bounds (e prlim : Nat) (pr : Int) (overload : (prlim : Int) < pr) (drive : 0 < e) :
    0 ≤ (e : Int) * prlim / pr ∧ (e : Int) * prlim / pr < e := by
  have positive : 0 < pr := by omega
  have below : (e : Int) * prlim < e * pr := Int.mul_lt_mul_of_pos_left overload (by omega)
  exact ⟨Int.ediv_nonneg (by positivity) positive.le, Int.ediv_lt_of_lt_mul positive below⟩

/-- An overload with drive folds to floor(E x PRLIM / PR), below E (R50). -/
theorem foldOutcome_overload (g : General) (pr : Int) (e : Nat) (overload : (g.prlim : Int) < pr) (drive : 0 < e) :
    ∃ k : Nat, foldOutcome g pr e = .fold k ∧ k < e ∧ (k : Int) = (e : Int) * g.prlim / pr := by
  obtain ⟨nonneg, below⟩ := fold_share_bounds e g.prlim pr overload drive
  have whole : (((e : Int) * g.prlim / pr).toNat : Int) = (e : Int) * g.prlim / pr := Int.toNat_of_nonneg nonneg
  refine ⟨((e : Int) * g.prlim / pr).toNat, ?_, by omega, whole⟩
  rw [foldOutcome, if_pos overload, if_pos drive]

/-- An overload without drive holds V (R50). -/
theorem foldOutcome_undriven (g : General) (pr : Int) (overload : (g.prlim : Int) < pr) : foldOutcome g pr 0 = .hold := by
  rw [foldOutcome, if_pos overload, if_neg (Nat.lt_irrefl 0)]

/-- In the band above the release level V is held (R50). -/
theorem foldOutcome_band (g : General) (pr : Int) (e : Nat) (low : (prrel g : Int) < pr) (high : pr ≤ g.prlim) :
    foldOutcome g pr e = .hold := by
  rw [foldOutcome, if_neg (not_lt.mpr high), if_pos low]

/-- At or below the release level V rises (R50). -/
theorem foldOutcome_released (g : General) (pr : Int) (e : Nat) (released : pr ≤ prrel g) :
    foldOutcome g pr e = .rise := by
  have limit := prrel_le_prlim g
  rw [foldOutcome, if_neg (by omega), if_neg (not_lt.mpr released)]

theorem newVOutcome_usable (t : EffectiveTable) (channels : Vector ChannelRecord 30) (e : Nat)
    (forward : channels[outf].usable = true) (reflected : channels[outr].usable = true) :
    newVOutcome t channels e = foldOutcome t.general channels[outr].value e := by
  rw [newVOutcome, forward, reflected, Bool.true_and, if_pos rfl]

/-- Without both output channels V is held (R49). -/
theorem newVOutcome_unusable (t : EffectiveTable) (channels : Vector ChannelRecord 30) (e : Nat)
    (unusable : channels[outf].usable = false ∨ channels[outr].usable = false) : newVOutcome t channels e = .hold := by
  have missing : ¬ (channels[outf].usable && channels[outr].usable) = true := by
    rw [Bool.not_eq_true, Bool.and_eq_false_iff]
    exact unusable
  rw [newVOutcome, if_neg missing]

/-! ### The tests on the readings -/

/-- The output trip test: enough forward power, and a reflected share at RHO2TRIP or more (R56). -/
theorem outputTestMet_iff (t : EffectiveTable) (channels : Vector ChannelRecord 30) :
    outputTestMet t channels = true ↔ channels[outf].usable = true ∧ channels[outr].usable = true ∧
      (t.general.pfmin : Int) ≤ channels[outf].value ∧
      (t.general.rho2trip : Int) * channels[outf].value ≤ 4096 * channels[outr].value := by
  simp only [outputTestMet, Bool.and_eq_true, decide_eq_true_eq, and_assoc]

/-- A module's test: enough forward power, and a reflected share at RHO2MOD or a reflected power at its trip level (R58). -/
theorem moduleTestMet_iff (t : EffectiveTable) (channels : Vector ChannelRecord 30) (m : Fin 8) :
    moduleTestMet t channels m = true ↔
      channels[fwdChannel m].usable = true ∧ channels[rflChannel m].usable = true ∧
      (t.general.modFmin : Int) ≤ channels[fwdChannel m].value ∧
      ((t.general.rho2mod : Int) * channels[fwdChannel m].value ≤ 4096 * channels[rflChannel m].value ∨
        t.channels[rflChannel m].trip ≤ channels[rflChannel m].value) := by
  simp only [moduleTestMet, Bool.and_eq_true, Bool.or_eq_true, decide_eq_true_eq, and_assoc]

/-- Settles O20: with both output channels usable the outcome for V goes by where PR stands to the limit and the release
level, and the tests are their conditions on the readings. -/
theorem reflectedPowerDecidesOutcomesAndTests : Obligations.ReflectedPowerDecidesOutcomesAndTests := by
  refine ⟨fun t channels e => ⟨fun forward reflected => ?_, newVOutcome_unusable t channels e⟩,
    fun t channels => ⟨outputTestMet_iff t channels, moduleTestMet_iff t channels⟩⟩
  rw [newVOutcome_usable t channels e forward reflected]
  refine ⟨foldOutcome_overload _ _ e, fun overload undriven => ?_, foldOutcome_band _ _ e, foldOutcome_released _ _ e⟩
  rw [undriven]
  exact foldOutcome_undriven _ _ overload

end Sys2Proof.Machine
end

section
/-! PROOF. The READMIT request: the module it names, and the outcome of each row of R64's table. -/

namespace Sys2Proof.Machine

/-! ### A request of a commanding master -/

/-- Outside reset a full-lane request of the control processor or the service port is judged by the block that owns it, and
S4 takes the result (R187). -/
theorem takeRequest_commands (r : Request) (m : Master) (value : Word) (judge : State → State × RequestResult) (s : State)
    (operating : s.operating) (commands : m.commands) :
    takeRequest r m 0xF value judge s = (judge s).1.answered r m (judge s).2 := by
  have running : ¬ s.pins.resetAsserted = true := by
    rw [show s.pins.resetAsserted = false from operating]
    exact Bool.false_ne_true
  rw [takeRequest.eq_def, if_neg running, if_pos (by decide)]
  cases m with
  | cp | sp => rfl
  | ts | dl => exact commands.elim

/-- A READMIT whose judgement is known leaves the judged state with S4 written. -/
theorem exec_readmit (m : Master) (value : Word) (s t : State) (result : RequestResult) (operating : s.operating)
    (commands : m.commands) (judged : judgeReadmit value s = (t, result)) :
    exec (.readmit m 0xF value) s = .next (t.answered .readmit m result) := by
  show Host.Outcome.next (takeRequest .readmit m 0xF value (judgeReadmit value) s) = _
  rw [takeRequest_commands _ m value _ s operating commands, judged]

/-! ### The module number -/

theorem field_lowHalf (w : Word) : field w 0 16 = w.toNat % 65536 := by
  rw [field, pow_zero, Nat.div_one]
  rfl

theorem readmitModule_outside (value : Word) (outside : 8 ≤ value.toNat % 65536) : readmitModule value = none := by
  rw [← field_lowHalf] at outside
  exact dif_neg (not_lt.mpr outside)

theorem readmitModule_named (value : Word) (i : Fin 8) (named : value.toNat % 65536 = i.val) :
    readmitModule value = some i := by
  rw [← field_lowHalf] at named
  have inside : field value 0 16 < 8 := named ▸ i.isLt
  rw [readmitModule, dif_pos inside]
  exact congrArg some (Fin.ext named)

/-! ### The rows of R64's table -/

/-- A GATED module loses MISMATCH and its count, and stays GATED under HOT or SENSOR alone (R64). -/
theorem readmit_of_gated (u : MismatchUnit) (i : Fin 8) (gated : u.admission[i].gated = true) :
    u.readmit i = { u with
      moduleCounters := u.moduleCounters.set i 0
      admission := u.admission.set i { u.admission[i] with
        mismatch := false, gated := u.admission[i].hot || u.admission[i].sensor } } := by
  rw [MismatchUnit.readmit, Admission.restarted, gated, Bool.true_and]

theorem judgeReadmit_outside (value : Word) (s : State) (outside : readmitModule value = none) :
    judgeReadmit value s = (s, .refusedArgument) := by
  rw [judgeReadmit, outside]

theorem judgeReadmit_admitted (value : Word) (s : State) (i : Fin 8) (named : readmitModule value = some i)
    (admitted : s.mu.admission[i].gated = false) : judgeReadmit value s = (s, .refusedState) := by
  simp only [judgeReadmit, named, admitted, Bool.false_eq_true, if_false]

theorem judgeReadmit_sensor (value : Word) (s : State) (i : Fin 8) (named : readmitModule value = some i)
    (gated : s.mu.admission[i].gated = true) (sensor : s.mu.admission[i].sensor = true) :
    judgeReadmit value s = (s.setMu (s.mu.readmit i), .refusedCause .sensor) := by
  simp only [judgeReadmit, named, gated, sensor, if_true]

theorem judgeReadmit_hot (value : Word) (s : State) (i : Fin 8) (named : readmitModule value = some i)
    (gated : s.mu.admission[i].gated = true) (sensor : s.mu.admission[i].sensor = false)
    (hot : s.mu.admission[i].hot = true) :
    judgeReadmit value s = (s.setMu (s.mu.readmit i), .refusedCause .thermal) := by
  simp only [judgeReadmit, named, gated, sensor, hot, Bool.false_eq_true, if_false, if_true]

/-- A module left without a cause is readmitted, with a record of it (R64, R66). -/
theorem judgeReadmit_causeless (value : Word) (s : State) (i : Fin 8) (named : readmitModule value = some i)
    (gated : s.mu.admission[i].gated = true) (sensor : s.mu.admission[i].sensor = false)
    (hot : s.mu.admission[i].hot = false) : judgeReadmit value s =
      ((s.setMu (s.mu.readmit i)).journalled (eventRecord s .moduleReadmitted i.val 0), .accepted) := by
  simp only [judgeReadmit, named, gated, sensor, hot, Bool.false_eq_true, if_false, if_true]
  rfl

/-- Settles O46: row by row of R64's table, by the module's number, its admission and the causes left. -/
theorem readmitReturnsAModuleWithoutCause : Obligations.ReadmitReturnsAModuleWithoutCause := by
  intro m value s operating commands
  have answer (t : State) (result : RequestResult) := exec_readmit m value s t result operating commands
  refine ⟨fun outside => answer _ _ (judgeReadmit_outside value s (readmitModule_outside value outside)), ?_⟩
  intro i u number readmitted
  have named := readmitModule_named value i number
  refine ⟨fun admitted => answer _ _ (judgeReadmit_admitted value s i named admitted), fun gated => ?_⟩
  have state : s.setMu (s.mu.readmit i) = u := by
    rw [readmitted, readmit_of_gated s.mu i gated]
    rfl
  subst state
  exact ⟨fun sensor => answer _ _ (judgeReadmit_sensor value s i named gated sensor),
    fun sensor hot => answer _ _ (judgeReadmit_hot value s i named gated sensor hot),
    fun sensor hot => answer _ _ (judgeReadmit_causeless value s i named gated sensor hot)⟩

end Sys2Proof.Machine
end

section
/-! PROOF. Every command keeps the drive bounded. The enforced ceilings move in two ways alone: a state entered zeroes
them, and a completion slews them. -/

namespace Sys2Proof.Machine

/-! ### When the drive is bounded -/

/-- In a bounded drive a sequencer outside OFF is one out of reset. -/
theorem DriveBounded.operating {s : State} (h : DriveBounded s) (notOff : s.sq.state ≠ .off) : s.operating := by
  obtain ⟨-, -, -, -, -, -, reset⟩ := h
  exact Bool.eq_false_iff.mpr fun asserted => notOff (reset asserted)

/-- A change that leaves V, the ceilings and the sequencer's state, gates no module and asserts no reset keeps the drive
bounded. -/
theorem DriveBounded.of_fields {s t : State} (h : DriveBounded s) (v : t.mu.v = s.mu.v := by simp)
    (gated : ∀ m : Fin 8, t.mu.admission[m].gated = true → s.mu.admission[m].gated = true := by simp)
    (ceilings : t.cu.c = s.cu.c ∧ t.cu.e = s.cu.e ∧ t.cu.cm = s.cu.cm ∧ t.cu.em = s.cu.em := by simp)
    (state : t.sq.state = s.sq.state := by simp)
    (reset : t.pins.resetAsserted = true → s.pins.resetAsserted = true := by simp) : DriveBounded t := by
  obtain ⟨vBound, cBound, eBound, emBound, quiet, gatedOff, off⟩ := h
  obtain ⟨c, e, cm, em⟩ := ceilings
  unfold DriveBounded
  rw [v, c, e, cm, em, state]
  exact ⟨vBound, cBound, eBound, emBound, quiet, fun m hm => gatedOff m (gated m hm),
    fun asserted => off (reset asserted)⟩

/-- With every enforced ceiling 0 the drive is bounded by V, C and the state during reset. -/
theorem driveBounded_of_zero {t : State} (v : t.mu.v ≤ Config.fullDrive) (c : t.cu.c ≤ Config.fullDrive)
    (zero : t.cu.zero = t.cu) (off : t.pins.resetAsserted = true → t.sq.state = .off) : DriveBounded t := by
  have e : t.cu.e = 0 := by rw [← zero]; rfl
  have em (m : Fin 8) : t.cu.em[m] = 0 := by rw [← zero]; simp [CeilingUnit.zero]
  exact ⟨v, c, by rw [e]; exact Nat.zero_le _, fun m => by rw [em]; exact Nat.zero_le _, fun _ => ⟨e, em⟩,
    fun m _ => em m, off⟩

/-! ### The sequencer -/

theorem enterState_driveBounded {s : State} (h : DriveBounded s) (operating : s.operating) (st : SeqState)
    (d : Destination) : DriveBounded (enterState st d s) := by
  obtain ⟨v, c, -⟩ := h
  exact driveBounded_of_zero v c rfl fun asserted => absurd (operating.symm.trans asserted) (by decide)

@[simp] theorem addSecondary_state (q : Sequencer) (k : TripKind) : (q.addSecondary k).state = q.state := by
  unfold Sequencer.addSecondary
  split <;> rfl

@[simp] theorem setPrimary_state (q : Sequencer) (k : TripKind) : (q.setPrimary k).state = q.state := rfl

theorem enterDemand_driveBounded {s : State} (h : DriveBounded s) (k : TripKind) : DriveBounded (enterDemand s k) := by
  cases hs : s.sq.state with
  | off => rw [enterDemand_off s k hs]; exact h
  | settle | run | mute =>
    rw [enterDemand_live s k (by rw [hs]; trivial)]
    exact enterState_driveBounded h.of_fields (h.operating (by simp [hs])) .discharge .tripped
  | tripped => rw [enterDemand_tripped s k (.inl hs)]; exact h.of_fields
  | discharge =>
    by_cases hd : s.sq.destination = .tripped
    · rw [enterDemand_tripped s k (.inr ⟨hs, hd⟩)]; exact h.of_fields
    · rw [enterDemand_towardOff s k hs hd]; exact h.of_fields

theorem tripDemands_driveBounded {s : State} (h : DriveBounded s) (ks : List TripKind) :
    DriveBounded (tripDemands ks s) := by
  have entered : DriveBounded (ks.foldl enterDemand s) := by
    induction ks generalizing s with
    | nil => exact h
    | cons k ks ih => exact ih (enterDemand_driveBounded h k)
  exact entered.of_fields

/-- A restart sets V to the full drive and zeroes the enforced ceilings. -/
theorem performRestart_driveBounded {s : State} (h : DriveBounded s) (operating : s.operating) (automatic : Bool)
    (tag : Nat) : DriveBounded (performRestart automatic tag s) := by
  obtain ⟨-, c, -⟩ := h
  refine driveBounded_of_zero ?_ ?_ ?_ fun asserted => ?_
  · rw [performRestart_mu]
    exact Nat.le_refl _
  · rw [performRestart_cu]
    exact c
  · rw [performRestart_cu]
    rfl
  · rw [performRestart_pins] at asserted
    exact absurd (operating.symm.trans asserted) (by decide)

theorem autoRestart_driveBounded {s : State} (h : DriveBounded s) : DriveBounded (autoRestart s) := by
  rcases autoRestart_cases s with kept | ⟨tripped, restarted⟩
  · rw [kept]; exact h
  · rw [restarted]; exact performRestart_driveBounded h (h.operating (by simp [tripped])) _ _

/-! ### The arc path -/

theorem strikeSignal_driveBounded {s : State} (h : DriveBounded s) : DriveBounded (strikeSignal s) := by
  unfold strikeSignal
  cases hs : s.sq.state with
  | run => exact enterState_driveBounded h (h.operating (by simp [hs])) _ _
  | mute | settle => exact h.of_fields (state := by simp [hs])
  | off | discharge | tripped => exact h

theorem arcClear_driveBounded {s : State} (h : DriveBounded s) : DriveBounded (arcClear s) := by
  unfold arcClear
  split
  · next hs _ => exact enterState_driveBounded h (h.operating (by simp [hs])) _ _
  · next hs _ => exact enterState_driveBounded h (h.operating (by simp [hs])) _ _
  · exact h

theorem strike_driveBounded {s : State} (h : DriveBounded s) (i : Fin 3) : DriveBounded (strike i s) := by
  unfold strike
  dsimp only
  split
  · exact tripDemands_driveBounded h.of_fields _
  · exact strikeSignal_driveBounded h.of_fields

theorem arcEvent_driveBounded {s : State} (h : DriveBounded s) (i : Fin 3) : DriveBounded (arcEvent i s) := by
  unfold arcEvent
  cases s.sq.state with
  | settle | run | mute => exact strike_driveBounded h i
  | off | discharge | tripped => exact h.of_fields

/-! ### Telemetry -/

theorem lossDemand_driveBounded {s : State} (h : DriveBounded s) : DriveBounded (lossDemand s) := by
  unfold lossDemand
  cases s.sq.state with
  | settle | run | mute => exact tripDemands_driveBounded h _
  | off | discharge | tripped => exact h

theorem placeSnapshot_driveBounded {s : State} (h : DriveBounded s) (n : Snapshot) :
    DriveBounded (placeSnapshot n s) := by
  unfold placeSnapshot
  split <;> exact h.of_fields

theorem takeSlot_driveBounded {s : State} (h : DriveBounded s) (slot : Fin 32) (w : Word) :
    DriveBounded (takeSlot slot w s) := by
  unfold takeSlot takeEnd
  split
  · exact h.of_fields
  · split
    · exact h.of_fields
    · split
      · exact placeSnapshot_driveBounded h.of_fields _
      · exact h.of_fields

theorem telemetryWrite_driveBounded {s : State} (h : DriveBounded s) (m : Master) (lanes : Lanes) (slot : Fin 32)
    (w : Word) : DriveBounded (telemetryWrite m lanes slot w s) := by
  unfold telemetryWrite
  dsimp only
  split
  · exact h.of_fields
  · split
    · exact takeSlot_driveBounded h.of_fields _ _
    · exact h.of_fields

/-! ### A completion -/

/-- An enforced ceiling never passes its ceiling. -/
theorem slew_le (on : Bool) (rise ceiling enforced : Nat) : slew on rise ceiling enforced ≤ ceiling := by
  unfold slew
  split
  · split
    · exact Nat.le_refl _
    · exact Nat.min_le_left _ _
  · exact Nat.zero_le _

@[simp] theorem slew_false (rise ceiling enforced : Nat) : slew false rise ceiling enforced = 0 := rfl

/-- The results adopted and recorded bound the drive by the new V and the new ceilings. -/
theorem journalCompletion_driveBounded {s : State} (h : DriveBounded s) (ev : Evaluation) :
    DriveBounded (journalCompletion ev s) := by
  obtain ⟨v, -, -, -, -, -, off⟩ := h
  have newV : (adoptMismatch ev (s.sq.state == .run) s.mu).v ≤ Config.fullDrive := applyVOutcome_le _ _ _ v
  unfold DriveBounded
  rw [journalCompletion_mu, journalCompletion_cu, journalCompletion_sq, journalCompletion_pins]
  generalize adoptMismatch ev (s.sq.state == .run) s.mu = u at newV
  simp only [adoptCeilings, Fin.getElem_fin, Vector.getElem_ofFn]
  refine ⟨newV, Nat.le_trans (Nat.min_le_right _ _) newV, slew_le _ _ _ _, fun m => slew_le _ _ _ _, fun notRun => ?_,
    fun m gated => ?_, off⟩
  · simp [beq_false_of_ne notRun]
  · simp [gated]

theorem completeEvaluation_driveBounded {s : State} (h : DriveBounded s) (ev : Evaluation) :
    DriveBounded (completeEvaluation ev s) := by
  have settled : DriveBounded (settleCompletion ev s) :=
    autoRestart_driveBounded (tripDemands_driveBounded (journalCompletion_driveBounded h ev) _)
  obtain ⟨-, c, e, cm, em⟩ := completeEvaluation_ceilings s ev
  obtain ⟨sq, -, mu, -⟩ := completeEvaluation_settled s ev
  exact settled.of_fields (v := by rw [mu]) (gated := by rw [mu]; exact fun _ => id) (ceilings := ⟨c, e, cm, em⟩)
    (state := by rw [sq])

/-! ### Writes -/

/-- A restarted module is GATED only if it was. -/
theorem restarted_gated (a : Admission) (h : a.restarted.gated = true) : a.gated = true := by
  rw [Admission.restarted, Bool.and_eq_true] at h
  exact h.1

theorem readmit_driveBounded {s : State} (h : DriveBounded s) (k : Fin 8) :
    DriveBounded (s.setMu (s.mu.readmit k)) := by
  refine h.of_fields (v := rfl) (gated := fun m => ?_)
  simp only [State.setMu_mu, MismatchUnit.readmit, Fin.getElem_fin, Vector.getElem_set]
  split
  · next same =>
    obtain rfl := Fin.ext same
    exact restarted_gated _
  · exact id

/-- Out of reset every request leaves the drive bounded. -/
theorem judgeOf_driveBounded {s : State} (h : DriveBounded s) (operating : s.operating) (r : Request) (m : Master)
    (w : Word) : DriveBounded (judgeOf r m w s).1 := by
  cases r with
  | restart =>
    simp only [judgeOf, judgeRestart]
    cases s.sq.state with
    | off | tripped =>
      cases restartCheck s with
      | some _ => exact h
      | none => exact performRestart_driveBounded h operating _ _
    | settle | run | mute | discharge => exact h
  | stop =>
    simp only [judgeOf, judgeStop]
    cases s.sq.state with
    | settle | run | mute => exact enterState_driveBounded h.of_fields operating _ _
    | off | discharge | tripped => exact h
  | readmit =>
    simp only [judgeOf, judgeReadmit]
    cases readmitModule w with
    | none => exact h
    | some k =>
      have readmitted := readmit_driveBounded h k
      dsimp only
      split
      · split
        · exact readmitted
        · split
          · exact readmitted
          · exact readmitted.of_fields
      · exact h
  | strikeClear =>
    simp only [judgeOf, judgeStrikeClear]
    cases s.sq.state with
    | off | tripped => exact h.of_fields
    | settle | run | mute | discharge => exact h
  | journalClear =>
    simp only [judgeOf, judgeJournalClear]
    split
    · exact h.of_fields
    · exact h
  | ownershipClear =>
    simp only [judgeOf, judgeOwnershipClear]
    cases m with
    | sp =>
      dsimp only
      split
      · exact h
      · exact h.of_fields
    | cp | ts | dl => exact h
  | captureArm =>
    simp only [judgeOf, judgeCaptureArm]
    exact h.of_fields
  | captureStop =>
    simp only [judgeOf, judgeCaptureStop]
    cases s.cap.state with
    | armed => exact h.of_fields
    | idle | post | frozen => exact h

theorem takeRequest_driveBounded {s : State} (h : DriveBounded s) (r : Request) (m : Master) (lanes : Lanes)
    (w : Word) : DriveBounded (takeRequest r m lanes w (judgeOf r m w) s) := by
  unfold takeRequest
  split
  · exact h.of_fields
  · next operating =>
    have judged := judgeOf_driveBounded h (Bool.eq_false_iff.mpr operating) r m w
    split
    · cases m with
      | cp | sp => exact judged.of_fields
      | ts | dl => exact h.of_fields
    · exact h.of_fields

theorem limitWrite_driveBounded {s : State} (h : DriveBounded s) (m : Master) (lanes : Lanes) (offset : Nat) (w : Word)
    (take : State → State) (taken : ∀ u, DriveBounded u → DriveBounded (take u)) :
    DriveBounded (limitWrite m lanes offset w take s) := by
  unfold limitWrite
  dsimp only
  split
  · exact h.of_fields
  · split
    · exact taken _ h.of_fields
    · exact h.of_fields

theorem limitWriteA_driveBounded {s : State} (h : DriveBounded s) (m : Master) (lanes : Lanes) (e : TwoWordEntry)
    (w : Word) : DriveBounded (limitWriteA m lanes e w s) :=
  limitWrite_driveBounded h _ _ _ _ _ fun _ hu => hu.of_fields

theorem limitWriteB_driveBounded {s : State} (h : DriveBounded s) (m : Master) (lanes : Lanes) (e : TwoWordEntry)
    (w : Word) : DriveBounded (limitWriteB m lanes e w s) :=
  limitWrite_driveBounded h _ _ _ _ _ fun _ hu => hu.of_fields

theorem limitWriteOne_driveBounded {s : State} (h : DriveBounded s) (m : Master) (lanes : Lanes) (e : OneWordEntry)
    (w : Word) : DriveBounded (limitWriteOne m lanes e w s) :=
  limitWrite_driveBounded h _ _ _ _ _ fun _ hu => hu.of_fields

theorem regionWrite_driveBounded {s : State} (h : DriveBounded s) (m : Master) (offset : Nat) (a : Address)
    (lanes : Lanes) (w : Word) : DriveBounded (regionWrite m offset a lanes w s) := by
  unfold regionWrite
  cases areaOf offset with
  | telemetry slot => exact telemetryWrite_driveBounded h m lanes slot w
  | limitA e => exact limitWriteA_driveBounded h m lanes e w
  | limitB e => exact limitWriteB_driveBounded h m lanes e w
  | limitOne e => exact limitWriteOne_driveBounded h m lanes e w
  | request r => cases r <;> exact takeRequest_driveBounded h _ m lanes w
  | plain | setpoint _ | ownership | effectiveView _ | status _ | headWindow _ | captureStart | captureContinue
  | captureStatus => exact h.of_fields

theorem busWrite_driveBounded {s : State} (h : DriveBounded s) (m : Master) (a : Address) (lanes : Lanes) (w : Word) :
    DriveBounded (busWrite m a lanes w s) := by
  unfold busWrite
  split
  · exact h.of_fields
  · split
    · exact h.of_fields
    · exact regionWrite_driveBounded h m _ a lanes w

/-! ### Reset -/

theorem holdInReset_driveBounded (straps : BitVec 8) (s : State) : DriveBounded (holdInReset straps s) :=
  driveBounded_of_zero (Nat.le_refl _) (Nat.le_refl _) rfl fun _ => rfl

/-! ### Every command -/

theorem exec_driveBounded (c : Instr) {s t : State} (h : DriveBounded s) (hexec : exec c s = .next t) :
    DriveBounded t := by
  cases c with
  | frameHeaderWrite w | dataSlotWrite slot w | frameEnd w =>
    cases hexec; exact telemetryWrite_driveBounded h _ _ _ _
  | limitWordAWrite m e w => cases hexec; exact limitWriteA_driveBounded h _ _ _ _
  | limitWordBWrite m e w => cases hexec; exact limitWriteB_driveBounded h _ _ _ _
  | limitOneWordWrite m e w => cases hexec; exact limitWriteOne_driveBounded h _ _ _ _
  | restart m lanes w => cases hexec; exact takeRequest_driveBounded h .restart m lanes w
  | stop m lanes w => cases hexec; exact takeRequest_driveBounded h .stop m lanes w
  | readmit m lanes w => cases hexec; exact takeRequest_driveBounded h .readmit m lanes w
  | strikeClear m lanes w => cases hexec; exact takeRequest_driveBounded h .strikeClear m lanes w
  | journalClear m lanes w => cases hexec; exact takeRequest_driveBounded h .journalClear m lanes w
  | ownershipClear m lanes w => cases hexec; exact takeRequest_driveBounded h .ownershipClear m lanes w
  | captureArm m lanes w => cases hexec; exact takeRequest_driveBounded h .captureArm m lanes w
  | captureStop m lanes w => cases hexec; exact takeRequest_driveBounded h .captureStop m lanes w
  | absorbedWrite m a lanes w => cases hexec; exact busWrite_driveBounded h _ _ _ _
  | dlExciterDriveRead x | dlTrimRead m x | dlGateRead m x | ownershipWordWrite m lanes w | headWindowWord0Read m x
  | headWindowWordRead m w x => cases hexec; exact h.of_fields
  | ownershipWordRead m x =>
    simp only [exec, execOwnershipWordRead] at hexec
    split at hexec <;> cases hexec <;> exact h.of_fields
  | cpS0Read x =>
    simp only [exec, execCpS0Read, readS0] at hexec
    split at hexec <;> cases hexec <;> exact h.of_fields
  | captureStartAliasRead m x =>
    simp only [exec, execCaptureStartAliasRead] at hexec
    split at hexec <;> cases hexec <;> exact h.of_fields
  | captureContinueAliasRead m x =>
    simp only [exec, execCaptureContinueAliasRead] at hexec
    split at hexec <;> cases hexec <;> exact h.of_fields
  | frameTimeoutExpiry =>
    simp only [exec, execFrameTimeoutExpiry] at hexec
    split at hexec <;> cases hexec
    · have lost := lossDemand_driveBounded
        (h.of_fields (t := s.setTd { s.td with frameTimer := none, telemetryLost := true }))
      exact lost.of_fields
    · exact h
  | evaluationCompletion =>
    simp only [exec, execEvaluationCompletion] at hexec
    split at hexec
    · cases hexec; exact h
    · exact Host.Outcome.next.inj hexec ▸ completeEvaluation_driveBounded h _
  | holdOffExpiry =>
    simp only [exec, execHoldOffExpiry] at hexec
    split at hexec
    · cases hexec; exact h
    · obtain rfl := Host.Outcome.next.inj hexec
      exact h.of_fields
  | arcLineAssert i =>
    simp only [exec, execArcLineAssert, setArcLine] at hexec
    split at hexec <;> cases hexec <;> exact h.of_fields
  | arcLineDeassert i =>
    simp only [exec, execArcLineDeassert, setArcLine] at hexec
    split at hexec <;> cases hexec <;> exact h.of_fields
  | arcQualifyExpiry i =>
    simp only [exec, execArcQualifyExpiry] at hexec
    split at hexec <;> cases hexec
    · exact arcEvent_driveBounded h.of_fields i
    · exact h
  | arcReleaseExpiry i =>
    simp only [exec, execArcReleaseExpiry] at hexec
    split at hexec
    · split at hexec <;> cases hexec
      · exact h.of_fields
      · exact arcClear_driveBounded h.of_fields
    · cases hexec; exact h
  | stuckTimerExpiry i =>
    simp only [exec, execStuckTimerExpiry] at hexec
    split at hexec <;> cases hexec
    · exact tripDemands_driveBounded h.of_fields _
    · exact h
  | strikeEntryAgeing =>
    simp only [exec, execStrikeEntryAgeing] at hexec
    split at hexec
    · cases hexec; exact h
    · split at hexec <;> cases hexec
      · exact h.of_fields
      · exact h
  | interlockOpen =>
    simp only [exec, execInterlockOpen] at hexec
    split at hexec
    · cases hexec; exact h
    · split at hexec <;> cases hexec
      · exact h.of_fields
      · exact tripDemands_driveBounded h.of_fields _
  | interlockClose =>
    simp only [exec, execInterlockClose] at hexec
    split at hexec
    · split at hexec <;> cases hexec
      · exact h.of_fields
      · exact autoRestart_driveBounded h.of_fields
    · cases hexec; exact h
  | settleExpiry =>
    simp only [exec, execSettleExpiry] at hexec
    split at hexec
    · next due =>
      split at hexec <;> cases hexec
      · exact h.of_fields
      · exact enterState_driveBounded h (h.operating (by simp [due.1])) _ _
    · cases hexec; exact h
  | quenchExpiry =>
    simp only [exec, execQuenchExpiry] at hexec
    split at hexec
    · next due =>
      split at hexec <;> cases hexec
      · exact h.of_fields
      · exact enterState_driveBounded h (h.operating (by simp [due.1])) _ _
    · cases hexec; exact h
  | dischargeExpiry =>
    simp only [exec, execDischargeExpiry] at hexec
    split at hexec <;> cases hexec
    · next due => exact enterState_driveBounded h (h.operating (by simp [due.1])) _ _
    · exact h
  | resetAssert straps => cases hexec; exact holdInReset_driveBounded straps s
  | resetRelease straps =>
    simp only [exec, execResetRelease] at hexec
    split at hexec <;> cases hexec
    · exact h.of_fields
    · exact h
  | millisecondCounterTick =>
    simp only [exec, execMillisecondCounterTick] at hexec
    split at hexec <;> cases hexec
    · exact h
    · exact h.of_fields

/-- Settles O5: a step is a command, each of which keeps the drive bounded, or idles. -/
theorem stepsKeepTheDriveBounded : Obligations.StepsKeepTheDriveBounded := by
  intro s t h hstep
  rcases step_cases hstep with rfl | ⟨c, rest, next⟩
  · exact h
  · exact exec_driveBounded c (h.of_fields (t := { s with pending := rest })) next

end Sys2Proof.Machine
end

section
/-! PROOF. The ceilings a completion publishes, and the drive it leaves (R72 to R76). -/

namespace Sys2Proof.Machine

/-- With drive on a ceiling is taken down at once and up by at most the rise step (R75). -/
theorem slew_true (rise ceiling enforced : Nat) : slew true rise ceiling enforced =
    if ceiling ≤ enforced then ceiling else min ceiling (enforced + rise) := rfl

/-- In RUN the enforced ceiling of a GATED module is 0, and an ADMITTED one's moves as E does (R76, R81). -/
theorem slew_not (gated : Bool) (rise ceiling enforced : Nat) : slew (!gated) rise ceiling enforced =
    if gated then 0 else if ceiling ≤ enforced then ceiling else min ceiling (enforced + rise) := by
  cases gated <;> rfl

/-- G, C and the C_m after a completion are those of its results. -/
theorem completeEvaluation_published (s : State) (ev : Evaluation) :
    (completeEvaluation ev s).cu.g = globalCeiling ev.fractions ∧
    (completeEvaluation ev s).cu.c =
      min (globalCeiling ev.fractions) (adoptMismatch ev (s.sq.state == .run) s.mu).v ∧
    ∀ m : Fin 8, (completeEvaluation ev s).cu.cm[m] =
      moduleCeiling ev.fractions (adoptMismatch ev (s.sq.state == .run) s.mu).admission[m] m := by
  obtain ⟨g, c, -, cm, -⟩ := completeEvaluation_ceilings s ev
  obtain ⟨settledG, settledC, settledCm, -⟩ := settleCompletion_ceilings s ev
  rw [g, c, cm, settledG, settledC, settledCm, journalCompletion_cu]
  exact ⟨rfl, rfl, fun m => by simp [adoptCeilings]⟩

/-- A completion that leaves RUN standing found RUN, and slewed E and the E_m of the ADMITTED modules. -/
theorem completeEvaluation_run (s : State) (ev : Evaluation) (run : (completeEvaluation ev s).sq.state = .run) :
    s.sq.state = .run ∧
    (completeEvaluation ev s).cu.e = slew true ev.rise (completeEvaluation ev s).cu.c s.cu.e ∧
    ∀ m : Fin 8, (completeEvaluation ev s).cu.em[m] =
      slew (!(adoptMismatch ev (s.sq.state == .run) s.mu).admission[m].gated) ev.rise (completeEvaluation ev s).cu.cm[m]
        s.cu.em[m] := by
  obtain ⟨-, c, e, cm, em⟩ := completeEvaluation_ceilings s ev
  obtain ⟨sq, -⟩ := completeEvaluation_settled s ev
  rw [sq] at run
  obtain ⟨settled, found⟩ := settleCompletion_run s ev run
  rw [c, e, cm, em, settled, journalCompletion_cu, found]
  exact ⟨rfl, rfl, fun m => by simp [adoptCeilings]⟩

/-- A completion that leaves another state than RUN leaves the drive off. -/
theorem completeEvaluation_notRun (s : State) (ev : Evaluation) (notRun : (completeEvaluation ev s).sq.state ≠ .run) :
    (completeEvaluation ev s).cu.e = 0 ∧ ∀ m : Fin 8, (completeEvaluation ev s).cu.em[m] = 0 := by
  obtain ⟨-, -, e, -, em⟩ := completeEvaluation_ceilings s ev
  obtain ⟨sq, -⟩ := completeEvaluation_settled s ev
  rw [sq] at notRun
  rw [e, em, ← settleCompletion_notRun s ev notRun]
  exact ⟨rfl, fun m => by simp [CeilingUnit.zero]⟩

/-- A module is GATED after a completion where it was, or where a cause stands: the cause set is that of the outcomes. -/
theorem MismatchUnit.CompletedFrom.gated {after before : MismatchUnit} {ev : Evaluation} {run : Bool}
    (h : after.CompletedFrom ev run before) (m : Fin 8) : after.admission[m].gated =
      (before.admission[m].gated || ev.hot[m] || ev.sensorCauses[m] || before.admission[m].mismatch ||
        decide (ev.modPersist ≤
          if run = true ∧ ev.moduleTests[m] = true then min (before.moduleCounters[m] + 1) 15 else 0)) := by
  obtain ⟨-, -, -, modules⟩ := h
  obtain ⟨counter, hot, sensor, mismatch, gated⟩ := modules m
  rw [gated, hot, sensor, mismatch, counter]
  ac_rfl

/-- Settles O21: the published ceilings, and the slew in RUN or the drive off outside it. -/
theorem completionSetsTheCeilings : Obligations.CompletionSetsTheCeilings := by
  intro ev s hev
  have completed := adoptMismatch_completed ev s
  obtain ⟨g, c, cm⟩ := completeEvaluation_published s ev
  refine ⟨completeEvaluation ev s, (adoptMismatch ev (s.sq.state == .run) s.mu).v,
    fun m => (adoptMismatch ev (s.sq.state == .run) s.mu).admission[m].gated, exec_evaluationCompletion s ev hev, ?_,
    fun m => ?_, g, by rw [c, g], cm, fun run => ?_, completeEvaluation_notRun s ev⟩
  · obtain ⟨v, -⟩ := completed
    exact v
  · simpa only [decide_eq_true_eq] using completed.gated m
  · obtain ⟨found, e, em⟩ := completeEvaluation_run s ev run
    exact ⟨found, e.trans (slew_true _ _ _), fun m => (em m).trans (slew_not _ _ _ _)⟩

end Sys2Proof.Machine
end

section
/-! PROOF. Drive-link reads of the setpoint words: answered from the ceilings and gates, held, zeroed or expired (R79 to
R88). -/

namespace Sys2Proof.Machine

/-- A word with its low half replaced by a 16-bit number holds that number there, and its high half stands. -/
theorem withLowHalf_halves (w : Word) (v : Nat) (h : v < 65536) :
    (withLowHalf w v).toNat % 65536 = v ∧ (withLowHalf w v).toNat / 65536 = w.toNat / 65536 := by
  have hw := w.isLt
  simp only [withLowHalf, BitVec.toNat_ofNat]
  omega

/-- A word with its low half capped: the least of the request, the full drive and the enforced ceiling (R79, R80). -/
theorem withLowHalf_capped (w : Word) (enforced : Nat) :
    (withLowHalf w (min (field w 0 16) (min Config.fullDrive enforced))).toNat % 65536 =
      min (w.toNat % 65536) (min 4095 enforced) ∧
    (withLowHalf w (min (field w 0 16) (min Config.fullDrive enforced))).toNat / 65536 = w.toNat / 65536 := by
  have small : min (field w 0 16) (min Config.fullDrive enforced) < 65536 :=
    Nat.lt_of_le_of_lt (Nat.min_le_left _ _) (field_lt w 0 16)
  obtain ⟨low, high⟩ := withLowHalf_halves w _ small
  exact ⟨by rw [low, field_lowHalf]; rfl, high⟩

/-- A read is held exactly during an evaluation, with HOLD_MAX above 0 and room in the queue (R83). -/
theorem holdsRead_iff (s : State) : holdsRead s = true ↔
    s.cu.evaluation.isSome = true ∧ 0 < s.lt.effective.general.holdMax ∧ s.bp.heldReads.length < 4 := by
  simp only [holdsRead, Bool.and_eq_true, decide_eq_true_eq, and_assoc]
  rfl

/-- A read outside an evaluation, with HOLD_MAX 0 or with the queue full is answered at once (R82, R83). -/
theorem driveLinkRead_answered (w : Setpoint) (x : BitVec 4) (s : State) (operating : s.operating)
    (free : s.cu.evaluation = none ∨ s.lt.effective.general.holdMax = 0 ∨ 4 ≤ s.bp.heldReads.length) :
    driveLinkRead w x s = s.replied .dl x (substitutedWord w s) := by
  have notHeld : ¬ holdsRead s = true := by
    rw [holdsRead_iff]
    rintro ⟨inFlight, holdMax, room⟩
    rcases free with idle | zero | full
    · simp [idle] at inFlight
    · omega
    · omega
  unfold driveLinkRead
  rw [if_neg (Bool.eq_false_iff.mp operating), if_neg notHeld]
  rfl

/-- A read during an evaluation joins the tail of the held reads (R83, R84). -/
theorem driveLinkRead_held (w : Setpoint) (x : BitVec 4) (s : State) (operating : s.operating)
    (held : holdsRead s = true) : driveLinkRead w x s = { s with bp := { s.bp with
      heldReads := s.bp.heldReads ++ [⟨w, x, s.lt.effective.general.holdMax⟩] } } := by
  unfold driveLinkRead
  rw [if_neg (Bool.eq_false_iff.mp operating), if_pos held]
  rfl

/-- A read during reset is answered 0 (R88). -/
theorem driveLinkRead_reset (w : Setpoint) (x : BitVec 4) (s : State) (reset : s.pins.resetAsserted = true) :
    driveLinkRead w x s = s.replied .dl x 0 := if_pos reset

theorem exec_dlExciterDriveRead (x : BitVec 4) (s : State) :
    exec (.dlExciterDriveRead x) s = .next (driveLinkRead .exciter x s) := rfl

theorem exec_dlTrimRead (m : Fin 8) (x : BitVec 4) (s : State) :
    exec (.dlTrimRead m x) s = .next (driveLinkRead (.trim m) x s) := rfl

theorem exec_dlGateRead (m : Fin 8) (x : BitVec 4) (s : State) :
    exec (.dlGateRead m x) s = .next (driveLinkRead (.gate m) x s) := rfl

/-- Settles O33: a read answered at once carries memory's word, capped in a drive or trim word and gated in a gate word. -/
theorem substitutedReadsFollowCeilingsAndGates : Obligations.SubstitutedReadsFollowCeilingsAndGates := by
  refine ⟨fun x s operating free => ⟨⟨_, ?_, withLowHalf_capped _ s.cu.e⟩, fun m =>
    ⟨_, ?_, withLowHalf_capped _ s.cu.em[m]⟩⟩, fun m x s operating free => ?_⟩
  · rw [exec_dlExciterDriveRead, driveLinkRead_answered _ x s operating free]
    rfl
  · rw [exec_dlTrimRead, driveLinkRead_answered _ x s operating free]
    rfl
  · rw [exec_dlGateRead, driveLinkRead_answered _ x s operating free]
    rfl

/-- Settles O34: each of the three reads is held in an evaluation, and answered 0 during reset. -/
theorem driveLinkReadsAreHeldOrZeroedAtReset : Obligations.DriveLinkReadsAreHeldOrZeroedAtReset := by
  intro x m s
  simp only [exec_dlExciterDriveRead, exec_dlTrimRead, exec_dlGateRead]
  refine ⟨fun operating inFlight holdMax room => ?_, fun reset => ?_⟩
  · have held := (holdsRead_iff s).mpr ⟨inFlight, holdMax, room⟩
    simp only [driveLinkRead_held _ x s operating held, and_self]
  · simp only [driveLinkRead_reset _ x s reset, and_self]

/-- Settles O35: the head of the queue is answered and leaves it, and the expiry is counted. -/
theorem holdOffExpiryAnswersTheOldestRead : Obligations.HoldOffExpiryAnswersTheOldestRead := by
  intro h rest s held
  simp only [exec, execHoldOffExpiry, held]
  rfl

end Sys2Proof.Machine
end

section
/-! PROOF. The assertion of reset, its release, and the millisecond counter. -/

namespace Sys2Proof.Machine

/-- A word with its low half zeroed is the word shifted out and back. -/
theorem withLowHalf_zero (w : Word) : withLowHalf w 0 = w >>> 16 <<< 16 := by
  have hw := w.isLt
  apply BitVec.eq_of_toNat_eq
  simp only [withLowHalf, BitVec.toNat_ofNat, BitVec.toNat_shiftLeft, BitVec.toNat_ushiftRight,
    Nat.shiftLeft_eq, Nat.shiftRight_eq_div_pow]
  omega

theorem exec_resetAssert (straps : BitVec 8) (s : State) :
    exec (.resetAssert straps) s = .next (holdInReset straps s) := rfl

/-- At the release an asserted line moves an IDLE filter to QUALIFYING and a RELEASING one to HELD (R91, R102). -/
theorem releasedInput_eq (line : Bool) (x : ArcInput) : releasedInput line x =
    if line = true ∧ x.filter = .idle then { x with filter := .qualifying }
    else if line = true ∧ x.filter = .releasing then { x with filter := .held }
    else x := by
  obtain ⟨filter, stuckTimer, stuck⟩ := x
  cases line with
  | false => simp [releasedInput]
  | true => cases filter <;> rfl

theorem exec_resetRelease (straps : BitVec 8) (s : State) (reset : s.pins.resetAsserted = true) :
    exec (.resetRelease straps) s = .next { s with
      pins := { s.pins with resetAsserted := false, straps := straps }
      bp := { s.bp with regionBase := straps }
      td := { s.td with telemetryLost := true }
      am := { s.am with inputs := Vector.ofFn fun i => releasedInput s.pins.arcLines[i] s.am.inputs[i] } } :=
  if_pos reset

/-- Settles O60: the assertion, the release, and the tick outside reset and during it. -/
theorem resetAndTheMillisecondCounter : Obligations.ResetAndTheMillisecondCounter := by
  intro straps s
  refine ⟨?_, fun reset => ⟨_, exec_resetRelease straps s reset, rfl, fun i => ?_⟩, fun operating => ?_,
    fun reset => ?_⟩
  · rw [exec_resetAssert]
    refine congrArg Host.Outcome.next ?_
    apply State.eq_of_fields
    case h14 =>
      refine congrArg (s.replies ++ ·) (List.map_congr_left fun held _ => ?_)
      obtain ⟨word, x, holdMax⟩ := held
      cases word with
      | exciter | trim m => exact congrArg (Reply.mk .dl x) (withLowHalf_zero _)
      | gate m => rfl
    all_goals rfl
  · simp only [Fin.getElem_fin, Vector.getElem_ofFn]
    exact releasedInput_eq _ _
  · exact if_neg (Bool.eq_false_iff.mp operating)
  · exact if_pos reset

end Sys2Proof.Machine
end

section
/-! PROOF. The arc path: the lines and their filters, strikes and no-RF arcs, releases, stuck inputs and ageing (R91 to
R100). -/

namespace Sys2Proof.Machine

/-! ### Arc lines -/

theorem exec_arcLineAssert (i : Fin 3) (s : State) (operating : s.operating) :
    exec (.arcLineAssert i) s = .next
      ((setArcLine i true s).setAm (s.am.setFilter i s.am.inputs[i].filter.onAssert)) :=
  if_neg (Bool.eq_false_iff.mp operating)

theorem exec_arcLineDeassert (i : Fin 3) (s : State) (operating : s.operating) :
    exec (.arcLineDeassert i) s = .next
      ((setArcLine i false s).setAm (s.am.setFilter i s.am.inputs[i].filter.onDeassert)) :=
  if_neg (Bool.eq_false_iff.mp operating)

/-- During reset a filter takes no change of its line (R102). -/
theorem exec_arcLineAssert_reset (i : Fin 3) (s : State) (reset : s.pins.resetAsserted = true) :
    exec (.arcLineAssert i) s = .next (setArcLine i true s) := if_pos reset

theorem exec_arcLineDeassert_reset (i : Fin 3) (s : State) (reset : s.pins.resetAsserted = true) :
    exec (.arcLineDeassert i) s = .next (setArcLine i false s) := if_pos reset

/-- Settles O36: the table of R91, row by row of the filter's state, and the line alone during reset. -/
theorem arcLinesMoveTheirFilters : Obligations.ArcLinesMoveTheirFilters := by
  intro i s
  refine ⟨fun operating => ⟨?_, ?_⟩,
    fun reset => ⟨exec_arcLineAssert_reset i s reset, exec_arcLineDeassert_reset i s reset⟩⟩
  · rw [exec_arcLineAssert i s operating, ArcMonitor.setFilter]
    cases s.am.inputs[i].filter <;> rfl
  · rw [exec_arcLineDeassert i s operating, ArcMonitor.setFilter]
    cases s.am.inputs[i].filter <;> rfl

/-! ### Strikes -/

/-- The strike list a strike leaves: entries that reached the window are gone, and the strike joins (R94). -/
def strikesAfter (i : Fin 3) (s : State) : List Strike :=
  pruneStrikes s.msCounter (windowMs s.lt.effective.general) s.am.strikes ++ [⟨i, s.msCounter⟩]

/-- The state a strike hands to the sequencer: the list renewed, and an ARC record with its length (R94, R97). -/
def struck (i : Fin 3) (s : State) : State :=
  State.journalled { s with am := { s.am with strikes := strikesAfter i s } }
    (eventRecord s .arc i.val (strikesAfter i s).length)

/-- A strike at the limit is a lockout, and below it a STRIKE signal (R95). -/
theorem strike_eq (i : Fin 3) (s : State) : strike i s =
    if s.lt.effective.general.strikeLimit ≤ (strikesAfter i s).length then tripDemand .arcLockout (struck i s)
    else strikeSignal (struck i s) := rfl

theorem arcEvent_live (i : Fin 3) (s : State) (live : s.sq.state.live) : arcEvent i s = strike i s := by
  unfold arcEvent
  cases hs : s.sq.state with
  | settle | run | mute => rfl
  | off | discharge | tripped => rw [hs] at live; exact live.elim

/-- An arc with no RF leaves a record with value 0 and the no-RF flag, and nothing else (R93, R97). -/
theorem arcEvent_notLive (i : Fin 3) (s : State) (notLive : ¬ s.sq.state.live) :
    arcEvent i s = s.journalled { eventRecord s .arc i.val 0 with noRf := true } := by
  unfold arcEvent
  cases hs : s.sq.state with
  | settle | run | mute => rw [hs] at notLive; exact absurd trivial notLive
  | off | discharge | tripped => rfl

/-- The state in which an arc event begins: the filter HELD and its stuck timer started (R91, R99). -/
def arcBegun (i : Fin 3) (s : State) : State :=
  s.setAm (s.am.setInput i { s.am.inputs[i] with filter := .held, stuckTimer := some s.msCounter })

theorem exec_arcQualifyExpiry (i : Fin 3) (s : State) (qualifying : s.am.inputs[i].filter = .qualifying) :
    exec (.arcQualifyExpiry i) s = .next (arcEvent i (arcBegun i s)) := if_pos qualifying

theorem strike_lockout (i : Fin 3) (s : State) (live : s.sq.state.live)
    (limit : s.lt.effective.general.strikeLimit ≤ (strikesAfter i s).length) :
    strike i s = (struck i s).trippedOn .arcLockout := by
  rw [strike_eq, if_pos limit, tripDemand_live (struck i s) _ live]

theorem strike_below (i : Fin 3) (s : State)
    (below : (strikesAfter i s).length < s.lt.effective.general.strikeLimit) :
    strike i s = strikeSignal (struck i s) := by
  rw [strike_eq, if_neg (Nat.not_le.mpr below)]

theorem strikeSignal_run (s : State) (run : s.sq.state = .run) : strikeSignal s = s.entered .mute .empty := by
  rw [strikeSignal, run]
  exact enterState_eq s .mute (by decide) .empty

theorem strikeSignal_mute (s : State) (mute : s.sq.state = .mute) : strikeSignal s = { s with sq := { s.sq with
    quenchTimer := some (s.msCounter + BitVec.ofNat 32 s.lt.effective.general.quench), waiting := false } } := by
  rw [strikeSignal, mute]
  rfl

theorem strikeSignal_settle (s : State) (settle : s.sq.state = .settle) : strikeSignal s = { s with sq := { s.sq with
    settleTimer := some (s.msCounter + BitVec.ofNat 32 s.lt.effective.general.settle), waiting := false } } := by
  rw [strikeSignal, settle]
  rfl

/-- Settles O37: a strike by the list's length and the sequencer's state, and a no-RF arc. -/
theorem qualifiedArcsStrikeOrAreRecorded : Obligations.QualifiedArcsStrikeOrAreRecorded := by
  refine ⟨fun i s u strikes qualifying live list state => ?_, fun i s qualifying notLive => ?_⟩
  · have joined : strikesAfter i (arcBegun i s) = strikes := list.symm
    obtain rfl : struck i (arcBegun i s) = u := by
      rw [state, struck, joined]
      rfl
    rw [exec_arcQualifyExpiry i s qualifying, arcEvent_live i (arcBegun i s) live, ← joined]
    refine ⟨fun limit => ?_, fun below => ?_⟩
    · rw [strike_lockout i (arcBegun i s) live limit]
    · rw [strike_below i (arcBegun i s) below]
      exact ⟨fun run => congrArg _ (strikeSignal_run _ run), fun mute => congrArg _ (strikeSignal_mute _ mute),
        fun settle => congrArg _ (strikeSignal_settle _ settle)⟩
  · rw [exec_arcQualifyExpiry i s qualifying, arcEvent_notLive i (arcBegun i s) notLive]
    rfl

/-! ### Releases -/

theorem isHeld_iff (x : ArcInput) : x.isHeld = true ↔ x.filter = .held ∨ x.filter = .releasing := by
  simp [ArcInput.isHeld]

theorem arcHeld_iff (a : ArcMonitor) : a.arcHeld = true ↔ ∃ j : Fin 3, a.inputs[j].isHeld = true := by
  simp [ArcMonitor.arcHeld, Fin.exists_fin_succ, or_assoc]

/-- With one input no longer held, an arc is held exactly where another input is. -/
theorem arcHeld_setInput_iff (a : ArcMonitor) (i : Fin 3) (x : ArcInput) (free : x.isHeld = false) :
    (a.setInput i x).arcHeld = true ↔ ∃ j : Fin 3, j ≠ i ∧ a.inputs[j].isHeld = true := by
  rw [arcHeld_iff]
  refine exists_congr fun j => ?_
  by_cases same : j = i
  · subst same
    simp [ArcMonitor.setInput, free]
  · simp [ArcMonitor.setInput, same, Fin.val_ne_of_ne (Ne.symm same)]

/-- The state in which an arc event has ended: the filter IDLE, the stuck timer stopped and the stuck flag clear (R91,
R100). -/
def arcEnded (i : Fin 3) (s : State) : State :=
  s.setAm (s.am.setInput i { filter := .idle, stuckTimer := none, stuck := false })

theorem exec_arcReleaseExpiry (i : Fin 3) (s : State) (releasing : s.am.inputs[i].filter = .releasing) :
    exec (.arcReleaseExpiry i) s =
      .next (if (arcEnded i s).am.arcHeld then arcEnded i s else arcClear (arcEnded i s)) := by
  refine (if_pos releasing).trans ?_
  exact (apply_ite Host.Outcome.next _ _ _).symm

/-- The arc clear lets a waiting sequencer run (R111, R113; log entry 26). -/
theorem arcClear_waiting (s : State) (waiting : s.sq.waiting = true) (state : s.sq.state = .settle ∨ s.sq.state = .mute) :
    arcClear s = s.entered .run .empty := by
  rcases state with state | state <;> rw [arcClear, state, waiting]
  all_goals exact enterState_eq s .run (by decide) .empty

theorem arcClear_notWaiting (s : State)
    (free : s.sq.waiting = false ∨ s.sq.state ≠ .settle ∧ s.sq.state ≠ .mute) : arcClear s = s := by
  unfold arcClear
  split
  · next state waiting => simp [state, waiting] at free
  · next state waiting => simp [state, waiting] at free
  · rfl

/-- Settles O38: the event ends, and the arc clear is given where no other input is held. -/
theorem releaseEndsTheArcEvent : Obligations.ReleaseEndsTheArcEvent := by
  intro i s t releasing ended
  obtain rfl : arcEnded i s = t := ended.symm
  have held := arcHeld_setInput_iff s.am i { filter := .idle, stuckTimer := none, stuck := false } rfl
  rw [exec_arcReleaseExpiry i s releasing]
  refine ⟨fun ⟨j, other, heldFilter⟩ => ?_, fun others => ?_⟩
  · exact congrArg _ (if_pos (held.mpr ⟨j, other, (isHeld_iff _).mpr heldFilter⟩))
  · have clear : ¬ (arcEnded i s).am.arcHeld = true := by
      intro still
      obtain ⟨j, other, heldInput⟩ := held.mp still
      rw [isHeld_iff] at heldInput
      rcases others j other with free | free <;> rw [free] at heldInput <;> exact absurd heldInput (by decide)
    rw [if_neg clear]
    exact ⟨fun waiting state => congrArg _ (arcClear_waiting _ waiting state),
      fun free => congrArg _ (arcClear_notWaiting _ free)⟩

/-! ### Stuck inputs and ageing -/

/-- The state in which an input is stuck: its timer stopped and its flag set (R99). -/
def inputStuck (i : Fin 3) (s : State) : State :=
  s.setAm (s.am.setInput i { s.am.inputs[i] with stuckTimer := none, stuck := true })

theorem stuckDue_some (now stamp : Word) : stuckDue now (some stamp) = true ↔ 2000 ≤ (now - stamp).toNat :=
  decide_eq_true_iff

theorem exec_stuckTimerExpiry_due (i : Fin 3) (s : State)
    (due : stuckDue s.msCounter s.am.inputs[i].stuckTimer = true) :
    exec (.stuckTimerExpiry i) s = .next (tripDemand .arcStuck (inputStuck i s)) := if_pos due

theorem exec_stuckTimerExpiry_notDue (i : Fin 3) (s : State)
    (notDue : ¬ stuckDue s.msCounter s.am.inputs[i].stuckTimer = true) :
    exec (.stuckTimerExpiry i) s = .next s := if_neg notDue

/-- One demand that meets DISCHARGE toward OFF turns the destination, with a TRIP record (R117, R119). -/
theorem tripDemand_towardOff (s : State) (k : TripKind) (discharge : s.sq.state = .discharge)
    (towardOff : s.sq.destination ≠ .tripped) : tripDemand k s =
      State.journalled { s with sq := { s.sq with primary := some k, secondary := [], destination := .tripped } }
        (eventRecord s (.trip k) 0 0) := by
  have found : eventRecord s (.trip k) 0 0 = { eventRecord s (.trip k) 0 0 with seqState := .discharge } := by
    simp only [eventRecord, discharge]
  rw [found, tripDemand, tripDemands_towardOff s k [] discharge towardOff (List.nodup_singleton k) (Nat.zero_le _)]
  rfl

/-- Settles O39: the demand by the sequencer's state, and the oldest strike by its age. -/
theorem stuckInputsTripAndStrikesAge : Obligations.StuckInputsTripAndStrikesAge := by
  refine ⟨fun i stamp s t running stuck => ⟨fun due => ?_, fun early => ?_⟩, fun x rest s oldest => ?_⟩
  · obtain rfl : inputStuck i s = t := stuck.symm
    rw [exec_stuckTimerExpiry_due i s (by rw [running]; exact (stuckDue_some _ _).mpr due)]
    refine ⟨fun live => ?_, fun off => ?_, fun discharge towardOff => ?_, fun tripped => ?_⟩
    · rw [tripDemand_live (inputStuck i s) _ live]
    · rw [tripDemand_off (inputStuck i s) _ off]
    · rw [tripDemand_towardOff (inputStuck i s) _ discharge towardOff]
      rfl
    · rw [tripDemand, tripDemands_tripped (inputStuck i s) _ tripped.symm]
      rfl
  · refine exec_stuckTimerExpiry_notDue i s ?_
    rw [running, stuckDue_some]
    exact Nat.not_le.mpr early
  · simp only [exec, execStrikeEntryAgeing, oldest]
    exact ⟨fun reached => if_pos reached, fun young => if_neg (Nat.not_le.mpr young)⟩

end Sys2Proof.Machine
end

section
/-! PROOF. The arc filters follow their lines, and the strike list stays within its bound. A strike alone makes the list
longer; every other command leaves it or shortens it, and ARC_LOCKOUT leaves the holder only with the list. -/

namespace Sys2Proof.Machine

/-! ### One arc input -/

/-- An arc input in line with its arc line, in reset or out of it (R91, R99, R100, R102). -/
def ArcInput.InLine (x : ArcInput) (reset line : Bool) : Prop :=
  (reset = false → (line = true ↔ x.filter = .qualifying ∨ x.filter = .held)) ∧
  (reset = true → x.filter = .idle) ∧
  (x.stuckTimer.isSome = true ∨ x.stuck = true → x.isHeld = true)

theorem arcInputsSound_iff (s : State) : ArcInputsSound s ↔
    ∀ i : Fin 3, s.am.inputs[i].InLine s.pins.resetAsserted s.pins.arcLines[i] := Iff.rfl

/-- An idle input with its timer stopped and its flag clear is in line with any line during reset. -/
theorem inLine_reset (line : Bool) : ArcInput.reset.InLine true line :=
  ⟨nofun, fun _ => rfl, fun h => absurd h (by decide)⟩

/-- During reset a line's change keeps its input in line (R102). -/
theorem ArcInput.InLine.anyLine {x : ArcInput} {line : Bool} (h : x.InLine true line) (line' : Bool) :
    x.InLine true line' := by
  obtain ⟨-, idle, event⟩ := h
  exact ⟨nofun, idle, event⟩

/-- An asserting line leaves its filter QUALIFYING or HELD, and a deasserting one neither (R91). -/
theorem onAssert_follows (f : FilterState) : f.onAssert = .qualifying ∨ f.onAssert = .held := by
  cases f <;> decide

theorem onDeassert_follows (f : FilterState) : ¬ (f.onDeassert = .qualifying ∨ f.onDeassert = .held) := by
  cases f <;> decide

/-- A line's change ends no arc event (R91). -/
theorem onAssert_held {f : FilterState} (held : f = .held ∨ f = .releasing) :
    f.onAssert = .held ∨ f.onAssert = .releasing := by
  rcases held with rfl | rfl <;> decide

theorem onDeassert_held {f : FilterState} (held : f = .held ∨ f = .releasing) :
    f.onDeassert = .held ∨ f.onDeassert = .releasing := by
  rcases held with rfl | rfl <;> decide

theorem ArcInput.InLine.asserted {x : ArcInput} {line : Bool} (h : x.InLine false line) :
    ArcInput.InLine { x with filter := x.filter.onAssert } false true := by
  obtain ⟨-, -, event⟩ := h
  exact ⟨fun _ => iff_of_true rfl (onAssert_follows _), nofun,
    fun running => (isHeld_iff _).mpr (onAssert_held ((isHeld_iff x).mp (event running)))⟩

theorem ArcInput.InLine.deasserted {x : ArcInput} {line : Bool} (h : x.InLine false line) :
    ArcInput.InLine { x with filter := x.filter.onDeassert } false false := by
  obtain ⟨-, -, event⟩ := h
  exact ⟨fun _ => iff_of_false Bool.false_ne_true (onDeassert_follows _), nofun,
    fun running => (isHeld_iff _).mpr (onDeassert_held ((isHeld_iff x).mp (event running)))⟩

/-- A QUALIFYING input, whose line is asserted out of reset, is in line as HELD. -/
theorem ArcInput.InLine.qualified {x : ArcInput} {reset line : Bool} (h : x.InLine reset line)
    (qualifying : x.filter = .qualifying) (timer : Option Word) :
    ArcInput.InLine { x with filter := .held, stuckTimer := timer } reset line := by
  obtain ⟨follows, idle, -⟩ := h
  rw [qualifying] at follows idle
  exact ⟨fun operating => iff_of_true ((follows operating).mpr (.inl rfl)) (.inr rfl),
    fun asserted => absurd (idle asserted) (by decide), fun _ => rfl⟩

/-- A RELEASING input, whose line is deasserted, is in line as IDLE. -/
theorem ArcInput.InLine.released {x : ArcInput} {reset line : Bool} (h : x.InLine reset line)
    (releasing : x.filter = .releasing) :
    ArcInput.InLine { filter := .idle, stuckTimer := none, stuck := false } reset line := by
  obtain ⟨follows, -, -⟩ := h
  rw [releasing] at follows
  exact ⟨fun operating => (follows operating).trans (by decide), fun _ => rfl, fun h => absurd h (by decide)⟩

/-- An input whose stuck timer runs is in an arc event, in which the stuck flag may set. -/
theorem ArcInput.InLine.stuck {x : ArcInput} {reset line : Bool} (h : x.InLine reset line)
    (running : x.stuckTimer.isSome = true) : ArcInput.InLine { x with stuckTimer := none, stuck := true } reset line := by
  obtain ⟨follows, idle, event⟩ := h
  exact ⟨follows, idle, fun _ => event (.inl running)⟩

/-- At the release of reset an idle input takes its line as it stands (R102). -/
theorem ArcInput.InLine.outOfReset {x : ArcInput} {line : Bool} (h : x.InLine true line) :
    (releasedInput line x).InLine false line := by
  obtain ⟨-, idle, event⟩ := h
  have filter := idle rfl
  have noEvent : ¬ (x.stuckTimer.isSome = true ∨ x.stuck = true) := by
    intro running
    have held := (isHeld_iff x).mp (event running)
    rw [filter] at held
    exact absurd held (by decide)
  obtain ⟨_, stuckTimer, stuck⟩ := x
  subst filter
  cases line with
  | false => exact ⟨fun _ => iff_of_false Bool.false_ne_true nofun, nofun, fun running => absurd running noEvent⟩
  | true => exact ⟨fun _ => iff_of_true rfl (.inl rfl), nofun, fun running => absurd running noEvent⟩

/-! ### What leaves the inputs alone -/

/-- The standing facts of the Arc Monitor. -/
structure ArcMonitorSound (s : State) : Prop where
  inputs : ArcInputsSound s
  strikes : StrikesSound s

/-- A change that leaves the arc inputs, their lines and reset, joins no strike, and takes ARC_LOCKOUT from the holder only
with the whole list. -/
structure ArcFrame (s t : State) : Prop where
  resetAsserted : t.pins.resetAsserted = s.pins.resetAsserted
  arcLines : t.pins.arcLines = s.pins.arcLines
  inputs : t.am.inputs = s.am.inputs
  strikes : t.am.strikes.length ≤ s.am.strikes.length
  lockout : s.sq.holds .arcLockout = true → t.am.strikes = [] ∨ t.sq.holds .arcLockout = true

theorem ArcFrame.trans {s t u : State} (h : ArcFrame s t) (k : ArcFrame t u) : ArcFrame s u where
  resetAsserted := k.resetAsserted.trans h.resetAsserted
  arcLines := k.arcLines.trans h.arcLines
  inputs := k.inputs.trans h.inputs
  strikes := k.strikes.trans h.strikes
  lockout held := by
    rcases h.lockout held with empty | stands
    · refine .inl (List.eq_nil_of_length_eq_zero ?_)
      simpa [empty] using k.strikes
    · exact k.lockout stands

/-- A change that leaves the Arc Monitor, its lines and the place of ARC_LOCKOUT in the holder. -/
theorem ArcFrame.of_kept {s t : State} (am : t.am = s.am := by simp)
    (holds : t.sq.holds .arcLockout = s.sq.holds .arcLockout := by simp)
    (pins : t.pins.resetAsserted = s.pins.resetAsserted ∧ t.pins.arcLines = s.pins.arcLines := by simp) :
    ArcFrame s t :=
  ⟨pins.1, pins.2, by rw [am], by rw [am], fun held => .inr (holds.trans held)⟩

theorem ArcFrame.refl (s : State) : ArcFrame s s := .of_kept rfl rfl ⟨rfl, rfl⟩

/-- A change that can shorten the strike list, and leaves the rest of the Arc Monitor, the sequencer and the lines. -/
theorem ArcFrame.of_strikes {s t : State} (l : List Strike) (am : t.am = { s.am with strikes := l })
    (shorter : l.length ≤ s.am.strikes.length) (sq : t.sq = s.sq := by simp) (pins : t.pins = s.pins := by simp) :
    ArcFrame s t :=
  ⟨by rw [pins], by rw [pins], by rw [am], by rw [am]; exact shorter, fun held => .inr (by rw [sq]; exact held)⟩

theorem ArcFrame.sound {s t : State} (h : ArcFrame s t) (hs : ArcMonitorSound s) : ArcMonitorSound t := by
  obtain ⟨inputs, bound, lockout⟩ := hs
  refine ⟨?_, h.strikes.trans bound, fun full => ?_⟩
  · unfold ArcInputsSound
    rw [h.resetAsserted, h.arcLines, h.inputs]
    exact inputs
  · have before : s.am.strikes.length = 8 := Nat.le_antisymm bound (full ▸ h.strikes)
    rcases h.lockout (lockout before) with empty | stands
    · rw [empty] at full
      exact absurd full (by decide)
    · exact stands

theorem ArcMonitorSound.of_kept {s t : State} (h : ArcMonitorSound s) (am : t.am = s.am := by simp)
    (holds : t.sq.holds .arcLockout = s.sq.holds .arcLockout := by simp)
    (pins : t.pins.resetAsserted = s.pins.resetAsserted ∧ t.pins.arcLines = s.pins.arcLines := by simp) :
    ArcMonitorSound t := (ArcFrame.of_kept am holds pins).sound h

/-! ### The sequencer's holder -/

theorem takesPrimary_false_iff (q : Sequencer) : q.takesPrimary = false ↔
    q.state = .off ∨ q.state = .tripped ∨ q.state = .discharge ∧ q.destination = .tripped := by
  unfold Sequencer.takesPrimary
  cases q.state <;> simp

/-- Where a cause stands in the holder, a demand takes no primary cause (R116). -/
theorem HolderSound.not_takesPrimary {q : Sequencer} (h : HolderSound q) {k : TripKind} (held : q.holds k = true) :
    q.takesPrimary = false := by
  obtain ⟨tripped, empty, -⟩ := h
  refine (takesPrimary_false_iff q).mpr (.inr (tripped.mp ?_))
  cases primary : q.primary with
  | some _ => rfl
  | none => simp [Sequencer.holds, primary, empty primary] at held

/-- In SETTLE, RUN and MUTE no cause stands in the holder (R116). -/
theorem HolderSound.holds_live {q : Sequencer} (h : HolderSound q) (live : q.state.live) (k : TripKind) :
    q.holds k = false := by
  refine Bool.eq_false_iff.mpr fun held => ?_
  have taken := takesPrimary_live q live
  rw [h.not_takesPrimary held] at taken
  exact absurd taken (by decide)

@[simp] theorem enter_holds (q : Sequencer) (g : General) (now : Word) (st : SeqState) (d : Destination) (k : TripKind) :
    (q.enter g now st d).holds k = q.holds k := rfl

/-- A secondary cause joins the others, which stand. -/
theorem addSecondary_holds (q : Sequencer) (j k : TripKind) (held : q.holds k = true) :
    (q.addSecondary j).holds k = true := by
  rw [holds_iff] at held ⊢
  unfold Sequencer.addSecondary
  split
  · exact held.imp_right (List.mem_append_left _)
  · exact held

/-- A demand that takes no primary cause leaves the causes in the holder, and none after it takes one. -/
theorem enterDemand_holds (s : State) (j k : TripKind) (settled : s.sq.takesPrimary = false)
    (held : s.sq.holds k = true) :
    (enterDemand s j).sq.takesPrimary = false ∧ (enterDemand s j).sq.holds k = true := by
  rcases (takesPrimary_false_iff _).mp settled with off | tripped
  · rw [enterDemand_off s j off]
    exact ⟨settled, held⟩
  · rw [enterDemand_tripped s j tripped]
    refine ⟨(takesPrimary_false_iff _).mpr (.inr ?_), addSecondary_holds _ _ _ held⟩
    simp only [State.setSq_sq, Sequencer.addSecondary]
    split <;> exact tripped

theorem enterDemands_holds (ks : List TripKind) (k : TripKind) (s : State) (settled : s.sq.takesPrimary = false)
    (held : s.sq.holds k = true) : (ks.foldl enterDemand s).sq.holds k = true := by
  induction ks generalizing s with
  | nil => exact held
  | cons j ks ih =>
    obtain ⟨settled', held'⟩ := enterDemand_holds s j k settled held
    exact ih _ settled' held'

theorem arcFrame_tripDemands (s : State) (ks : List TripKind) (holder : HolderSound s.sq) :
    ArcFrame s (tripDemands ks s) where
  resetAsserted := by rw [tripDemands_pins]
  arcLines := by rw [tripDemands_pins]
  inputs := by rw [tripDemands_am]
  strikes := by rw [tripDemands_am]
  lockout held := by
    rw [tripDemands_sq]
    exact .inr (enterDemands_holds ks _ s (holder.not_takesPrimary held) held)

/-- A restart that takes ARC_LOCKOUT from the holder empties the strike list (R123). -/
theorem arcFrame_performRestart (s : State) (automatic : Bool) (tag : Nat) :
    ArcFrame s (performRestart automatic tag s) where
  resetAsserted := by rw [performRestart_pins]
  arcLines := by rw [performRestart_pins]
  inputs := by rw [performRestart_am]
  strikes := by
    rw [performRestart_am]
    dsimp only
    split
    · exact Nat.zero_le _
    · exact Nat.le_refl _
  lockout held := by
    rw [performRestart_am]
    exact .inl (if_pos held)

theorem arcFrame_autoRestart (s : State) : ArcFrame s (autoRestart s) := by
  rcases autoRestart_cases s with kept | ⟨-, restarted⟩
  · rw [kept]; exact .refl s
  · rw [restarted]; exact arcFrame_performRestart s true 0

theorem arcFrame_arcClear (s : State) : ArcFrame s (arcClear s) := by
  refine .of_kept (holds := ?_)
  unfold arcClear
  split <;> rfl

theorem arcFrame_lossDemand (s : State) (holder : HolderSound s.sq) : ArcFrame s (lossDemand s) := by
  by_cases live : s.sq.state.live
  · rw [lossDemand_live s live, ← tripDemand_live s _ live]
    exact arcFrame_tripDemands s _ holder
  · rw [lossDemand_notLive s live]
    exact .refl s

/-! ### The window -/

theorem strikesUnder_length_le (now : Word) (old new : General) (l : List Strike) :
    (strikesUnder now old new l).length ≤ l.length := by
  unfold strikesUnder
  split
  · exact List.length_filter_le _ _
  · exact Nat.le_refl _

theorem arcFrame_takeEffectNow (t : EffectiveTable) (s : State) : ArcFrame s (takeEffectNow t s) :=
  .of_strikes _ (takeEffectNow_am t s) (strikesUnder_length_le _ _ _ _)

theorem arcFrame_takePendingNow (s : State) : ArcFrame s (takePendingNow s) :=
  .of_strikes _ (takeEffectNow_am _ _) (strikesUnder_length_le _ _ _ _)

theorem arcFrame_startEvaluation (n : Snapshot) (s : State) : ArcFrame s (startEvaluation n s) :=
  .of_strikes _ (startEvaluation_am s n) (strikesUnder_length_le _ _ _ _)

theorem arcFrame_handOver (x : Update) (s : State) : ArcFrame s (handOver x s) := by
  unfold handOver
  split
  · exact arcFrame_takeEffectNow _ s
  · exact .of_kept

theorem arcFrame_startPending (s : State) : ArcFrame s (startPending s) := by
  unfold startPending
  split
  · exact .refl s
  · exact .trans .of_kept (arcFrame_startEvaluation _ _)

/-- A completion gives its demands, restarts where it may, and starts the next evaluation. -/
theorem arcFrame_completeEvaluation (ev : Evaluation) (s : State) (holder : HolderSound s.sq) :
    ArcFrame s (completeEvaluation ev s) := by
  have recorded : ArcFrame s (journalCompletion ev s) := .of_kept
  have demanded := arcFrame_tripDemands (journalCompletion ev s) (demandsOf ev s)
    (by rw [journalCompletion_sq]; exact holder)
  have settled : ArcFrame s (settleCompletion ev s) := (recorded.trans demanded).trans (arcFrame_autoRestart _)
  have released : ArcFrame (settleCompletion ev s) (releaseReads (appendFrame ev (settleCompletion ev s))) := .of_kept
  exact (settled.trans released).trans (arcFrame_startPending _)

/-! ### Writes -/

theorem arcFrame_takeSlot (slot : Fin 32) (w : Word) (s : State) : ArcFrame s (takeSlot slot w s) := by
  unfold takeSlot takeEnd placeSnapshot
  repeat' split
  · exact .of_kept
  · exact .of_kept
  · exact .of_kept
  · exact .trans .of_kept (arcFrame_startEvaluation _ _)
  · exact .of_kept

theorem arcFrame_telemetryWrite (m : Master) (lanes : Lanes) (slot : Fin 32) (w : Word) (s : State) :
    ArcFrame s (telemetryWrite m lanes slot w s) := by
  unfold telemetryWrite
  dsimp only
  split
  · exact .of_kept
  · split
    · exact .trans .of_kept (arcFrame_takeSlot _ _ _)
    · exact .of_kept

theorem arcFrame_formWordB (m : Master) (e : TwoWordEntry) (w : Word) (s : State) :
    ArcFrame s (formWordB m e w s) := by
  unfold formWordB
  repeat' split
  · exact .trans .of_kept (arcFrame_handOver _ _)
  all_goals exact arcFrame_handOver _ s

theorem arcFrame_limitWrite (m : Master) (lanes : Lanes) (offset : Nat) (w : Word) (take : State → State) (s : State)
    (taken : ∀ u, ArcFrame u (take u)) : ArcFrame s (limitWrite m lanes offset w take s) := by
  unfold limitWrite
  dsimp only
  split
  · exact .of_kept
  · split
    · exact .trans .of_kept (taken _)
    · exact .of_kept

theorem arcFrame_limitWriteA (m : Master) (lanes : Lanes) (e : TwoWordEntry) (w : Word) (s : State) :
    ArcFrame s (limitWriteA m lanes e w s) :=
  arcFrame_limitWrite _ _ _ _ _ _ fun _ => .of_kept

theorem arcFrame_limitWriteB (m : Master) (lanes : Lanes) (e : TwoWordEntry) (w : Word) (s : State) :
    ArcFrame s (limitWriteB m lanes e w s) :=
  arcFrame_limitWrite _ _ _ _ _ _ fun u => arcFrame_formWordB m e w u

theorem arcFrame_limitWriteOne (m : Master) (lanes : Lanes) (e : OneWordEntry) (w : Word) (s : State) :
    ArcFrame s (limitWriteOne m lanes e w s) :=
  arcFrame_limitWrite _ _ _ _ _ _ fun u => arcFrame_handOver _ u

theorem arcFrame_judgeOf (r : Request) (m : Master) (w : Word) (s : State) : ArcFrame s (judgeOf r m w s).1 := by
  cases r with
  | restart =>
    simp only [judgeOf, judgeRestart]
    cases s.sq.state with
    | off | tripped =>
      cases restartCheck s with
      | some _ => exact .refl s
      | none => exact arcFrame_performRestart _ _ _
    | settle | run | mute | discharge => exact .refl s
  | stop =>
    simp only [judgeOf, judgeStop]
    cases s.sq.state with
    | settle | run | mute => exact .of_kept
    | off | discharge | tripped => exact .refl s
  | readmit =>
    simp only [judgeOf, judgeReadmit]
    repeat' split
    all_goals exact .of_kept
  | strikeClear =>
    simp only [judgeOf, judgeStrikeClear]
    cases s.sq.state with
    | off | tripped => exact .of_strikes [] rfl (Nat.zero_le _)
    | settle | run | mute | discharge => exact .refl s
  | journalClear =>
    simp only [judgeOf, judgeJournalClear]
    split <;> exact .of_kept
  | ownershipClear =>
    simp only [judgeOf, judgeOwnershipClear]
    repeat' split
    all_goals exact .of_kept
  | captureArm => exact .of_kept rfl rfl ⟨rfl, rfl⟩
  | captureStop =>
    simp only [judgeOf, judgeCaptureStop]
    cases s.cap.state with
    | armed | idle | post | frozen => exact .of_kept

theorem arcFrame_takeRequest (r : Request) (m : Master) (lanes : Lanes) (w : Word) (s : State) :
    ArcFrame s (takeRequest r m lanes w (judgeOf r m w) s) := by
  unfold takeRequest
  split
  · exact .of_kept
  · split
    · cases m with
      | cp => exact (arcFrame_judgeOf r .cp w s).trans .of_kept
      | sp => exact (arcFrame_judgeOf r .sp w s).trans .of_kept
      | ts | dl => exact .of_kept
    · exact .of_kept

theorem arcFrame_regionWrite (m : Master) (offset : Nat) (a : Address) (lanes : Lanes) (w : Word) (s : State) :
    ArcFrame s (regionWrite m offset a lanes w s) := by
  unfold regionWrite
  cases areaOf offset with
  | telemetry slot => exact arcFrame_telemetryWrite m lanes slot w s
  | limitA e => exact arcFrame_limitWriteA m lanes e w s
  | limitB e => exact arcFrame_limitWriteB m lanes e w s
  | limitOne e => exact arcFrame_limitWriteOne m lanes e w s
  | request r => cases r <;> exact arcFrame_takeRequest _ m lanes w s
  | plain | setpoint _ | ownership | effectiveView _ | status _ | headWindow _ | captureStart | captureContinue
  | captureStatus => exact .of_kept

theorem arcFrame_busWrite (m : Master) (a : Address) (lanes : Lanes) (w : Word) (s : State) :
    ArcFrame s (busWrite m a lanes w s) := by
  unfold busWrite
  split
  · exact .of_kept
  · split
    · exact .of_kept
    · exact arcFrame_regionWrite m _ a lanes w s

/-! ### What moves an arc input -/

theorem ArcMonitorSound.inLine {s : State} (h : ArcMonitorSound s) (i : Fin 3) :
    s.am.inputs[i].InLine s.pins.resetAsserted s.pins.arcLines[i] := h.inputs i

/-- One input replaced by another, with its line: the Arc Monitor stays sound where the new input is in line. -/
theorem ArcMonitorSound.replaceInput {s t : State} (h : ArcMonitorSound s) (i : Fin 3) (x : ArcInput) (line : Bool)
    (own : x.InLine s.pins.resetAsserted line) (am : t.am = s.am.setInput i x)
    (arcLines : t.pins.arcLines = s.pins.arcLines.set i line)
    (resetAsserted : t.pins.resetAsserted = s.pins.resetAsserted) (sq : t.sq = s.sq) : ArcMonitorSound t := by
  obtain ⟨inputs, strikes⟩ := h
  refine ⟨(arcInputsSound_iff t).mpr fun k => ?_, ?_⟩
  · rw [am, arcLines, resetAsserted, ArcMonitor.setInput]
    by_cases same : k = i
    · subst same
      simpa using own
    · have others : k.val ≠ i.val := Fin.val_ne_of_ne same
      simpa [Vector.getElem_set, others.symm] using (arcInputsSound_iff s).mp inputs k
  · unfold StrikesSound
    rw [am, sq]
    exact strikes

/-- One input replaced by another in line with the line as it stands. -/
theorem ArcMonitorSound.setInput {s : State} (h : ArcMonitorSound s) (i : Fin 3) (x : ArcInput)
    (own : x.InLine s.pins.resetAsserted s.pins.arcLines[i]) : ArcMonitorSound (s.setAm (s.am.setInput i x)) :=
  h.replaceInput i x s.pins.arcLines[i] own rfl (by simp) rfl rfl

/-- During reset a line moves alone, and its input stays IDLE (R102). -/
theorem ArcMonitorSound.setArcLine {s : State} (h : ArcMonitorSound s) (reset : s.pins.resetAsserted = true) (i : Fin 3)
    (level : Bool) : ArcMonitorSound (setArcLine i level s) := by
  have own := h.inLine i
  rw [reset] at own
  refine h.replaceInput i s.am.inputs[i] level (reset ▸ own.anyLine level) ?_ rfl rfl rfl
  simp [ArcMonitor.setInput, Machine.setArcLine]

theorem ArcMonitorSound.arcLineAssert {s t : State} (h : ArcMonitorSound s) (i : Fin 3)
    (hexec : exec (.arcLineAssert i) s = .next t) : ArcMonitorSound t := by
  cases reset : s.pins.resetAsserted with
  | true =>
    rw [exec_arcLineAssert_reset i s reset] at hexec
    exact Host.Outcome.next.inj hexec ▸ h.setArcLine reset i true
  | false =>
    have own := h.inLine i
    rw [exec_arcLineAssert i s reset] at hexec
    obtain rfl := Host.Outcome.next.inj hexec
    rw [reset] at own
    exact h.replaceInput i _ true (by rw [reset]; exact own.asserted) rfl rfl rfl rfl

theorem ArcMonitorSound.arcLineDeassert {s t : State} (h : ArcMonitorSound s) (i : Fin 3)
    (hexec : exec (.arcLineDeassert i) s = .next t) : ArcMonitorSound t := by
  cases reset : s.pins.resetAsserted with
  | true =>
    rw [exec_arcLineDeassert_reset i s reset] at hexec
    exact Host.Outcome.next.inj hexec ▸ h.setArcLine reset i false
  | false =>
    have own := h.inLine i
    rw [exec_arcLineDeassert i s reset] at hexec
    obtain rfl := Host.Outcome.next.inj hexec
    rw [reset] at own
    exact h.replaceInput i _ false (by rw [reset]; exact own.deasserted) rfl rfl rfl rfl

/-! ### A strike -/

theorem strikesAfter_length_le (i : Fin 3) (s : State) : (strikesAfter i s).length ≤ s.am.strikes.length + 1 := by
  rw [strikesAfter, List.length_append]
  exact Nat.add_le_add_right (List.length_filter_le _ _) 1

theorem EffectiveTable.inRange.strikeLimit_le {t : EffectiveTable} (h : t.inRange) : t.general.strikeLimit ≤ 8 := by
  obtain ⟨-, -, -, -, -, general⟩ := h
  obtain ⟨-, -, -, -, -, -, -, -, -, -, -, -, -, -, -, ⟨-, limit⟩, -⟩ := general
  exact limit

/-- A strike that fills the list is at the limit, which is 8 at most, and puts ARC_LOCKOUT in the holder (R94, R95). -/
theorem ArcMonitorSound.strike {s : State} (h : ArcMonitorSound s) (live : s.sq.state.live) (holder : HolderSound s.sq)
    (range : s.lt.effective.inRange) (i : Fin 3) : ArcMonitorSound (strike i s) := by
  obtain ⟨inputs, bound, lockout⟩ := h
  have limit := range.strikeLimit_le
  have room : s.am.strikes.length ≠ 8 := by
    intro full
    have stands := lockout full
    rw [holder.holds_live live] at stands
    exact absurd stands (by decide)
  have after := strikesAfter_length_le i s
  by_cases reached : s.lt.effective.general.strikeLimit ≤ (strikesAfter i s).length
  · rw [strike_lockout i s live reached]
    exact ⟨inputs, (by omega : (strikesAfter i s).length ≤ 8), fun _ => rfl⟩
  · rw [strike_below i s (Nat.not_le.mp reached)]
    have below : (strikesAfter i s).length < 8 := by omega
    refine ⟨?_, ?_⟩
    · unfold ArcInputsSound
      rw [strikeSignal_am, strikeSignal_pins]
      exact inputs
    · unfold StrikesSound
      rw [strikeSignal_am]
      exact ⟨below.le, fun full => absurd full below.ne⟩

theorem ArcMonitorSound.arcEvent {s : State} (h : ArcMonitorSound s) (holder : HolderSound s.sq)
    (range : s.lt.effective.inRange) (i : Fin 3) : ArcMonitorSound (arcEvent i s) := by
  by_cases live : s.sq.state.live
  · rw [arcEvent_live i s live]
    exact h.strike live holder range i
  · rw [arcEvent_notLive i s live]
    exact h.of_kept rfl rfl ⟨rfl, rfl⟩

/-! ### Expiries of an arc input -/

theorem ArcMonitorSound.arcQualifyExpiry {s t : State} (h : ArcMonitorSound s) (holder : HolderSound s.sq)
    (range : s.lt.effective.inRange) (i : Fin 3) (hexec : exec (.arcQualifyExpiry i) s = .next t) :
    ArcMonitorSound t := by
  have own := h.inLine i
  by_cases qualifying : s.am.inputs[i].filter = .qualifying
  · rw [exec_arcQualifyExpiry i s qualifying] at hexec
    have begun : ArcMonitorSound (arcBegun i s) := h.setInput i _ (own.qualified qualifying _)
    exact Host.Outcome.next.inj hexec ▸ begun.arcEvent holder range i
  · rw [show exec (.arcQualifyExpiry i) s = .next s from if_neg qualifying] at hexec
    exact Host.Outcome.next.inj hexec ▸ h

theorem ArcMonitorSound.arcReleaseExpiry {s t : State} (h : ArcMonitorSound s) (i : Fin 3)
    (hexec : exec (.arcReleaseExpiry i) s = .next t) : ArcMonitorSound t := by
  have own := h.inLine i
  by_cases releasing : s.am.inputs[i].filter = .releasing
  · rw [exec_arcReleaseExpiry i s releasing] at hexec
    have ended : ArcMonitorSound (arcEnded i s) := h.setInput i _ (own.released releasing)
    obtain rfl := Host.Outcome.next.inj hexec
    split
    · exact ended
    · exact (arcFrame_arcClear _).sound ended
  · rw [show exec (.arcReleaseExpiry i) s = .next s from if_neg releasing] at hexec
    exact Host.Outcome.next.inj hexec ▸ h

theorem stuckDue_isSome {now : Word} {timer : Option Word} (due : stuckDue now timer = true) : timer.isSome = true := by
  cases timer with
  | none => exact absurd due Bool.false_ne_true
  | some _ => rfl

theorem ArcMonitorSound.stuckTimerExpiry {s t : State} (h : ArcMonitorSound s) (holder : HolderSound s.sq) (i : Fin 3)
    (hexec : exec (.stuckTimerExpiry i) s = .next t) : ArcMonitorSound t := by
  have own := h.inLine i
  by_cases due : stuckDue s.msCounter s.am.inputs[i].stuckTimer = true
  · rw [exec_stuckTimerExpiry_due i s due] at hexec
    have flagged : ArcMonitorSound (inputStuck i s) := h.setInput i _ (own.stuck (stuckDue_isSome due))
    exact Host.Outcome.next.inj hexec ▸ (arcFrame_tripDemands (inputStuck i s) [.arcStuck] holder).sound flagged
  · rw [exec_stuckTimerExpiry_notDue i s due] at hexec
    exact Host.Outcome.next.inj hexec ▸ h

/-! ### Reset -/

theorem holdInReset_arcMonitorSound (straps : BitVec 8) (s : State) : ArcMonitorSound (holdInReset straps s) := by
  refine ⟨(arcInputsSound_iff _).mpr fun i => ?_, Nat.zero_le _, nofun⟩
  have idle : (holdInReset straps s).am.inputs[i] = ArcInput.reset := by
    simp [holdInReset, State.reset, ArcMonitor.reset]
  rw [idle]
  exact inLine_reset _

theorem ArcMonitorSound.resetRelease {s t : State} (h : ArcMonitorSound s) (straps : BitVec 8)
    (hexec : exec (.resetRelease straps) s = .next t) : ArcMonitorSound t := by
  cases reset : s.pins.resetAsserted with
  | false =>
    rw [show exec (.resetRelease straps) s = .next s from if_neg (Bool.eq_false_iff.mp reset)] at hexec
    exact Host.Outcome.next.inj hexec ▸ h
  | true =>
    rw [exec_resetRelease straps s reset] at hexec
    obtain rfl := Host.Outcome.next.inj hexec
    refine ⟨(arcInputsSound_iff _).mpr fun i => ?_, h.strikes⟩
    have own := h.inLine i
    rw [reset] at own
    simpa using own.outOfReset

/-! ### Every command -/

theorem exec_arcMonitorSound (c : Instr) {s t : State} (h : ArcMonitorSound s) (holder : HolderSound s.sq)
    (range : s.lt.effective.inRange) (hexec : exec c s = .next t) : ArcMonitorSound t := by
  cases c with
  | frameHeaderWrite w | dataSlotWrite slot w | frameEnd w =>
    cases hexec; exact (arcFrame_telemetryWrite _ _ _ _ s).sound h
  | limitWordAWrite m e w => cases hexec; exact (arcFrame_limitWriteA _ _ _ _ s).sound h
  | limitWordBWrite m e w => cases hexec; exact (arcFrame_limitWriteB _ _ _ _ s).sound h
  | limitOneWordWrite m e w => cases hexec; exact (arcFrame_limitWriteOne _ _ _ _ s).sound h
  | restart m lanes w => cases hexec; exact (arcFrame_takeRequest .restart m lanes w s).sound h
  | stop m lanes w => cases hexec; exact (arcFrame_takeRequest .stop m lanes w s).sound h
  | readmit m lanes w => cases hexec; exact (arcFrame_takeRequest .readmit m lanes w s).sound h
  | strikeClear m lanes w => cases hexec; exact (arcFrame_takeRequest .strikeClear m lanes w s).sound h
  | journalClear m lanes w => cases hexec; exact (arcFrame_takeRequest .journalClear m lanes w s).sound h
  | ownershipClear m lanes w => cases hexec; exact (arcFrame_takeRequest .ownershipClear m lanes w s).sound h
  | captureArm m lanes w => cases hexec; exact (arcFrame_takeRequest .captureArm m lanes w s).sound h
  | captureStop m lanes w => cases hexec; exact (arcFrame_takeRequest .captureStop m lanes w s).sound h
  | absorbedWrite m a lanes w => cases hexec; exact (arcFrame_busWrite m a lanes w s).sound h
  | arcLineAssert i => exact h.arcLineAssert i hexec
  | arcLineDeassert i => exact h.arcLineDeassert i hexec
  | arcQualifyExpiry i => exact h.arcQualifyExpiry holder range i hexec
  | arcReleaseExpiry i => exact h.arcReleaseExpiry i hexec
  | stuckTimerExpiry i => exact h.stuckTimerExpiry holder i hexec
  | resetAssert straps => cases hexec; exact holdInReset_arcMonitorSound straps s
  | resetRelease straps => exact h.resetRelease straps hexec
  | dlExciterDriveRead x | dlTrimRead m x | dlGateRead m x | ownershipWordWrite m lanes w | headWindowWord0Read m x
  | headWindowWordRead m w x => cases hexec; exact h.of_kept
  | ownershipWordRead m x =>
    simp only [exec, execOwnershipWordRead] at hexec
    split at hexec <;> cases hexec <;> exact h.of_kept
  | cpS0Read x =>
    simp only [exec, execCpS0Read, readS0] at hexec
    split at hexec <;> cases hexec <;> exact h.of_kept
  | captureStartAliasRead m x =>
    simp only [exec, execCaptureStartAliasRead] at hexec
    split at hexec <;> cases hexec <;> exact h.of_kept
  | captureContinueAliasRead m x =>
    simp only [exec, execCaptureContinueAliasRead] at hexec
    split at hexec <;> cases hexec <;> exact h.of_kept
  | frameTimeoutExpiry =>
    simp only [exec, execFrameTimeoutExpiry] at hexec
    split at hexec <;> cases hexec
    · have stopped : ArcFrame s (s.setTd { s.td with frameTimer := none, telemetryLost := true }) := .of_kept
      exact ((stopped.trans (arcFrame_lossDemand _ holder)).trans (arcFrame_takePendingNow _)).sound h
    · exact h
  | evaluationCompletion =>
    simp only [exec, execEvaluationCompletion] at hexec
    split at hexec
    · cases hexec; exact h
    · next ev _ => exact Host.Outcome.next.inj hexec ▸ (arcFrame_completeEvaluation ev s holder).sound h
  | holdOffExpiry =>
    simp only [exec, execHoldOffExpiry] at hexec
    split at hexec
    · cases hexec; exact h
    · obtain rfl := Host.Outcome.next.inj hexec
      exact h.of_kept
  | strikeEntryAgeing =>
    simp only [exec, execStrikeEntryAgeing] at hexec
    split at hexec
    · cases hexec; exact h
    · next rest oldest =>
      split at hexec <;> cases hexec
      · exact (ArcFrame.of_strikes rest rfl (by simp [oldest])).sound h
      · exact h
  | interlockOpen =>
    simp only [exec, execInterlockOpen] at hexec
    split at hexec
    · cases hexec; exact h
    · have opened : ArcFrame s (s.setPins { s.pins with interlockOpen := true }) := .of_kept
      split at hexec <;> cases hexec
      · exact opened.sound h
      · exact (opened.trans (arcFrame_tripDemands _ [.interlock] holder)).sound h
  | interlockClose =>
    simp only [exec, execInterlockClose] at hexec
    split at hexec
    · have closed : ArcFrame s (s.setPins { s.pins with interlockOpen := false }) := .of_kept
      split at hexec <;> cases hexec
      · exact closed.sound h
      · exact (closed.trans (arcFrame_autoRestart _)).sound h
    · cases hexec; exact h
  | settleExpiry =>
    simp only [exec, execSettleExpiry] at hexec
    split at hexec
    · split at hexec <;> cases hexec
      · exact h.of_kept (holds := by rfl)
      · exact h.of_kept
    · cases hexec; exact h
  | quenchExpiry =>
    simp only [exec, execQuenchExpiry] at hexec
    split at hexec
    · split at hexec <;> cases hexec
      · exact h.of_kept (holds := by rfl)
      · exact h.of_kept
    · cases hexec; exact h
  | dischargeExpiry =>
    simp only [exec, execDischargeExpiry] at hexec
    split at hexec <;> cases hexec
    · exact h.of_kept
    · exact h
  | millisecondCounterTick =>
    simp only [exec, execMillisecondCounterTick] at hexec
    split at hexec <;> cases hexec
    · exact h
    · exact h.of_kept

/-- Settles O10: a step is a command, each of which keeps the filters in line and the list within its bound, or idles. -/
theorem stepsKeepTheArcMonitorSound : Obligations.StepsKeepTheArcMonitorSound := by
  intro s t inputs strikes holder range hstep
  rcases step_cases hstep with rfl | ⟨c, rest, hexec⟩
  · exact ⟨inputs, strikes⟩
  · have sound : ArcMonitorSound { s with pending := rest } := ⟨inputs, strikes⟩
    obtain ⟨inputs', strikes'⟩ := exec_arcMonitorSound c sound holder range hexec
    exact ⟨inputs', strikes'⟩

end Sys2Proof.Machine
end

section
/-! PROOF. STRIKE CLEAR, JOURNAL CLEAR and OWNERSHIP CLEAR: each judged by its own block (R104, R160, R163). -/

namespace Sys2Proof.Machine

/-- A full-lane request whose judgement is known leaves the judged state with S4 written (R187). -/
theorem exec_judgedRequest {c : Instr} {r : Request} {m : Master} {value : Word} {judge : State → State × RequestResult}
    {s t : State} {result : RequestResult} (request : exec c s = .next (takeRequest r m 0xF value judge s))
    (operating : s.operating) (commands : m.commands) (judged : judge s = (t, result)) :
    exec c s = .next (t.answered r m result) := by
  rw [request, takeRequest_commands r m value judge s operating commands, judged]

/-! ### The rows of their tables -/

theorem judgeStrikeClear_accepted (s : State) (rest : s.sq.state = .off ∨ s.sq.state = .tripped) :
    judgeStrikeClear s = (s.setAm { s.am with strikes := [] }, .accepted) := by
  rcases rest with rest | rest <;> rw [judgeStrikeClear, rest]

theorem judgeStrikeClear_refused (s : State) (notOff : s.sq.state ≠ .off) (notTripped : s.sq.state ≠ .tripped) :
    judgeStrikeClear s = (s, .refusedState) := by
  unfold judgeStrikeClear
  cases hs : s.sq.state with
  | off => exact absurd hs notOff
  | tripped => exact absurd hs notTripped
  | settle | run | mute | discharge => rfl

theorem isOwner_iff (o : Owner) (m : Master) : isOwner o m = true ↔ (m = .cp ∧ o = .cp) ∨ (m = .sp ∧ o = .sp) := by
  revert o m
  rintro (_ | _ | _) (_ | _ | _ | _) <;> decide

/-- A journal cleared holds no record, and no latch of it holds a mark (R163). -/
theorem clear_eq (j : FaultJournal) : j.clear = { j with
    records := []
    readLatches := j.readLatches.map fun l => l.map fun x => { x with held := false } } := by
  have latches : (Vector.ofFn fun i : Fin 4 => j.readLatches[i].map fun l => { l with held := false }) =
      j.readLatches.map fun l => l.map fun x => { x with held := false } := by
    ext i hi : 1
    simp
  rw [FaultJournal.clear, latches]

theorem judgeJournalClear_owner (m : Master) (s : State) (owner : isOwner s.fj.owner m = true) :
    judgeJournalClear m s = (s.setFj s.fj.clear, .accepted) := if_pos owner

theorem judgeJournalClear_refused (m : Master) (s : State) (other : ¬ isOwner s.fj.owner m = true) :
    judgeJournalClear m s = (s, .refusedOwner) := if_neg other

theorem judgeOwnershipClear_owned (s : State) (owned : s.fj.owner ≠ .free) :
    judgeOwnershipClear .sp s = (s.setFj { s.fj with owner := .free }, .accepted) := if_neg owned

theorem judgeOwnershipClear_free (s : State) (free : s.fj.owner = .free) :
    judgeOwnershipClear .sp s = (s, .refusedState) := if_pos free

/-- Settles O47: the three requests row by row, by the sequencer's state, the owner and the master. -/
theorem clearRequestsActOnTheirOwnState : Obligations.ClearRequestsActOnTheirOwnState := by
  intro m value s operating commands
  have strikes {t : State} {result : RequestResult} (judged : judgeStrikeClear s = (t, result)) :
      exec (.strikeClear m 0xF value) s = .next (t.answered .strikeClear m result) :=
    exec_judgedRequest rfl operating commands judged
  have journal {t : State} {result : RequestResult} (judged : judgeJournalClear m s = (t, result)) :
      exec (.journalClear m 0xF value) s = .next (t.answered .journalClear m result) :=
    exec_judgedRequest rfl operating commands judged
  have ownership {t : State} {result : RequestResult} (judged : judgeOwnershipClear m s = (t, result)) :
      exec (.ownershipClear m 0xF value) s = .next (t.answered .ownershipClear m result) :=
    exec_judgedRequest rfl operating commands judged
  refine ⟨fun rest => strikes (judgeStrikeClear_accepted s rest),
    fun notOff notTripped => strikes (judgeStrikeClear_refused s notOff notTripped),
    fun owner => ?_, fun other => journal (judgeJournalClear_refused m s fun owner => other ((isOwner_iff _ _).mp owner)),
    fun service owned => ?_, fun service free => ?_, fun processor => ?_⟩
  · rw [journal (judgeJournalClear_owner m s ((isOwner_iff _ _).mpr owner)), clear_eq]
    rfl
  · subst service
    exact ownership (judgeOwnershipClear_owned s owned)
  · subst service
    exact ownership (judgeOwnershipClear_free s free)
  · subst processor
    exact ownership rfl

end Sys2Proof.Machine
end

section
/-! PROOF. Every command keeps the sequencer sound. A command leaves the sequencer, restarts or stops a timer, enters a state
that its holder fits, enters trip demands, or restarts the transmitter. -/

namespace Sys2Proof.Machine

/-! ### When the sequencer is sound -/

/-- The holder, the destination, the timers and the waiting flag are sound (R107, R109, R116). -/
def Sequencer.Sound (q : Sequencer) : Prop := HolderSound q ∧ TimersSound q

/-- A change that leaves the sequencer keeps it sound. -/
theorem Sequencer.Sound.of_kept {s t : State} (h : s.sq.Sound) (sq : t.sq = s.sq := by simp) : t.sq.Sound := sq ▸ h

/-- Where no trip stands the holder is empty. -/
theorem HolderSound.primary_none {q : Sequencer} (h : HolderSound q) (notTripped : q.state ≠ .tripped)
    (toward : q.state = .discharge → q.destination ≠ .tripped) : q.primary = none := by
  obtain ⟨held, -⟩ := h
  rw [← Option.not_isSome_iff_eq_none, held]
  rintro (tripped | ⟨discharge, aimed⟩)
  · exact notTripped tripped
  · exact toward discharge aimed

/-! ### Entering a state -/

/-- A state is entered soundly when its holder is filled exactly for TRIPPED and DISCHARGE toward TRIPPED, and DISCHARGE has a
destination. -/
theorem Sequencer.Sound.enter {q : Sequencer} (h : q.Sound) (g : General) (now : Word) (st : SeqState) (d : Destination)
    (fits : q.primary.isSome = true ↔ st = .tripped ∨ st = .discharge ∧ d = .tripped)
    (aimed : st = .discharge → d ≠ .empty) : (q.enter g now st d).Sound := by
  obtain ⟨⟨-, empty, room, nodup, new, -⟩, -⟩ := h
  refine ⟨⟨?_, empty, room, nodup, new, ?_⟩, enter_timersSound q g now st d⟩
  · by_cases hst : st = .discharge <;> simpa [Sequencer.enter, hst] using fits
  · by_cases hst : st = .discharge <;> simp [Sequencer.enter, hst, aimed]

/-- With an empty holder any state but TRIPPED is entered soundly, DISCHARGE toward OFF. -/
theorem Sequencer.Sound.enter_empty {q : Sequencer} (h : q.Sound) (g : General) (now : Word) (st : SeqState)
    (d : Destination) (empty : q.primary = none) (notTripped : st ≠ .tripped) (aimed : st = .discharge → d = .off) :
    (q.enter g now st d).Sound := by
  refine h.enter g now st d ?_ fun discharge => by simp [aimed discharge]
  simp only [empty, Option.isSome_none, Bool.false_eq_true, notTripped, false_or, false_iff, not_and]
  exact fun discharge => by simp [aimed discharge]

/-- A live sequencer enters RUN, MUTE, or DISCHARGE toward OFF soundly. -/
theorem Sequencer.Sound.enter_live {q : Sequencer} (h : q.Sound) (g : General) (now : Word) (st : SeqState)
    (d : Destination) (live : q.state.live) (notTripped : st ≠ .tripped) (aimed : st = .discharge → d = .off) :
    (q.enter g now st d).Sound := by
  refine h.enter_empty g now st d (h.1.primary_none (fun tripped => ?_) fun discharge => ?_) notTripped aimed
  · rw [tripped] at live
    exact live
  · rw [discharge] at live
    exact live.elim

/-- DISCHARGE enters its destination soundly: TRIPPED with a filled holder, OFF with an empty one. -/
theorem Sequencer.Sound.enter_destination {q : Sequencer} (h : q.Sound) (g : General) (now : Word)
    (discharge : q.state = .discharge) : (q.enter g now (destinationState q.destination) .empty).Sound := by
  have held := h.1.1
  rw [discharge] at held
  refine h.enter g now _ .empty ?_ ?_
  · rw [held]
    cases q.destination <;> simp [destinationState]
  · cases q.destination <;> simp [destinationState]

/-! ### Demands and restarts -/

theorem tripDemands_sequencerSound {s : State} (h : s.sq.Sound) (ks : List TripKind) : (tripDemands ks s).sq.Sound :=
  tripDemands_sound s ks h.1 h.2

theorem performRestart_sequencerSound (s : State) (automatic : Bool) (tag : Nat) :
    (performRestart automatic tag s).sq.Sound := performRestart_sound s automatic tag

theorem autoRestart_sequencerSound {s : State} (h : s.sq.Sound) : (autoRestart s).sq.Sound := by
  rcases autoRestart_cases s with kept | ⟨-, restarted⟩
  · rw [kept]; exact h
  · rw [restarted]; exact performRestart_sequencerSound s true 0

theorem lossDemand_sequencerSound {s : State} (h : s.sq.Sound) : (lossDemand s).sq.Sound := by
  unfold lossDemand
  cases s.sq.state with
  | settle | run | mute => exact tripDemands_sequencerSound h _
  | off | discharge | tripped => exact h

theorem completeEvaluation_sequencerSound {s : State} (h : s.sq.Sound) (ev : Evaluation) :
    (completeEvaluation ev s).sq.Sound := by
  have recorded : (journalCompletion ev s).sq.Sound := h.of_kept
  have settled : (settleCompletion ev s).sq.Sound :=
    autoRestart_sequencerSound (tripDemands_sequencerSound recorded _)
  obtain ⟨sq, -⟩ := completeEvaluation_settled s ev
  exact settled.of_kept sq

/-! ### The arc path -/

/-- MUTE's timer restarted, or SETTLE's, with the waiting flag clear (R110, R112, R113). -/
theorem strikeSignal_sequencerSound {s : State} (h : s.sq.Sound) : (strikeSignal s).sq.Sound := by
  obtain ⟨holder, settleTimer, quenchTimer, dischargeTimer, -⟩ := id h
  unfold strikeSignal
  cases hs : s.sq.state with
  | run => exact h.enter_live _ _ .mute .empty (by rw [hs]; trivial) (by decide) (by decide)
  | mute => exact ⟨holder, settleTimer, fun _ => hs, dischargeTimer, by simp⟩
  | settle => exact ⟨holder, fun _ => hs, quenchTimer, dischargeTimer, by simp⟩
  | off | discharge | tripped => exact h

theorem arcClear_sequencerSound {s : State} (h : s.sq.Sound) : (arcClear s).sq.Sound := by
  unfold arcClear
  split
  · next hs _ => exact h.enter_live _ _ .run .empty (by rw [hs]; trivial) (by decide) (by decide)
  · next hs _ => exact h.enter_live _ _ .run .empty (by rw [hs]; trivial) (by decide) (by decide)
  · exact h

theorem strike_sequencerSound {s : State} (h : s.sq.Sound) (i : Fin 3) : (strike i s).sq.Sound := by
  rw [strike_eq]
  have recorded : (struck i s).sq.Sound := h
  split
  · exact tripDemands_sequencerSound recorded [.arcLockout]
  · exact strikeSignal_sequencerSound recorded

theorem arcEvent_sequencerSound {s : State} (h : s.sq.Sound) (i : Fin 3) : (arcEvent i s).sq.Sound := by
  unfold arcEvent
  cases s.sq.state with
  | settle | run | mute => exact strike_sequencerSound h i
  | off | discharge | tripped => exact h

/-! ### Writes -/

@[simp] theorem takeSlot_sq (s : State) (slot : Fin 32) (w : Word) : (takeSlot slot w s).sq = s.sq := by
  unfold takeSlot takeEnd
  repeat' split
  all_goals simp

@[simp] theorem telemetryWrite_sq (s : State) (m : Master) (lanes : Lanes) (slot : Fin 32) (w : Word) :
    (telemetryWrite m lanes slot w s).sq = s.sq := by
  unfold telemetryWrite
  repeat' split
  all_goals simp

theorem limitWrite_sq (s : State) (m : Master) (lanes : Lanes) (offset : Nat) (w : Word) (take : State → State)
    (taken : ∀ u, (take u).sq = u.sq) : (limitWrite m lanes offset w take s).sq = s.sq := by
  unfold limitWrite
  repeat' split
  all_goals simp [taken]

@[simp] theorem limitWriteA_sq (s : State) (m : Master) (lanes : Lanes) (e : TwoWordEntry) (w : Word) :
    (limitWriteA m lanes e w s).sq = s.sq := limitWrite_sq _ _ _ _ _ _ fun _ => stageWordA_sq _ _ _ _

@[simp] theorem limitWriteB_sq (s : State) (m : Master) (lanes : Lanes) (e : TwoWordEntry) (w : Word) :
    (limitWriteB m lanes e w s).sq = s.sq := limitWrite_sq _ _ _ _ _ _ fun _ => formWordB_sq _ _ _ _

@[simp] theorem limitWriteOne_sq (s : State) (m : Master) (lanes : Lanes) (e : OneWordEntry) (w : Word) :
    (limitWriteOne m lanes e w s).sq = s.sq := limitWrite_sq _ _ _ _ _ _ fun _ => handOver_sq _ _

/-- RESTART and STOP alone move the sequencer, each into a state that the holder fits. -/
theorem judgeOf_sequencerSound {s : State} (h : s.sq.Sound) (r : Request) (m : Master) (w : Word) :
    (judgeOf r m w s).1.sq.Sound := by
  cases r with
  | restart =>
    simp only [judgeOf, judgeRestart]
    cases s.sq.state with
    | off | tripped =>
      cases restartCheck s with
      | some _ => exact h
      | none => exact performRestart_sequencerSound s false _
    | settle | run | mute | discharge => exact h
  | stop =>
    simp only [judgeOf, judgeStop]
    cases hs : s.sq.state with
    | settle | run | mute =>
      exact h.enter_live _ _ .discharge .off (by rw [hs]; trivial) (by decide) fun _ => rfl
    | off | discharge | tripped => exact h
  | readmit =>
    simp only [judgeOf, judgeReadmit]
    repeat' split
    all_goals exact h
  | strikeClear =>
    simp only [judgeOf, judgeStrikeClear]
    cases s.sq.state <;> exact h
  | journalClear =>
    simp only [judgeOf, judgeJournalClear]
    split <;> exact h
  | ownershipClear =>
    simp only [judgeOf, judgeOwnershipClear]
    repeat' split
    all_goals exact h
  | captureArm => exact h
  | captureStop =>
    simp only [judgeOf, judgeCaptureStop]
    cases s.cap.state <;> exact h

theorem takeRequest_sequencerSound {s : State} (h : s.sq.Sound) (r : Request) (m : Master) (lanes : Lanes) (w : Word) :
    (takeRequest r m lanes w (judgeOf r m w) s).sq.Sound := by
  unfold takeRequest
  split
  · exact h
  · split
    · cases m with
      | cp | sp => exact judgeOf_sequencerSound h r _ w
      | ts | dl => exact h
    · exact h

theorem regionWrite_sequencerSound {s : State} (h : s.sq.Sound) (m : Master) (offset : Nat) (a : Address)
    (lanes : Lanes) (w : Word) : (regionWrite m offset a lanes w s).sq.Sound := by
  unfold regionWrite
  cases areaOf offset with
  | request r => cases r <;> exact takeRequest_sequencerSound h _ m lanes w
  | telemetry _ | limitA _ | limitB _ | limitOne _ | plain | setpoint _ | ownership | effectiveView _ | status _
  | headWindow _ | captureStart | captureContinue | captureStatus => exact h.of_kept

theorem busWrite_sequencerSound {s : State} (h : s.sq.Sound) (m : Master) (a : Address) (lanes : Lanes) (w : Word) :
    (busWrite m a lanes w s).sq.Sound := by
  unfold busWrite
  split
  · exact h
  · split
    · exact h
    · exact regionWrite_sequencerSound h m _ a lanes w

/-! ### The interval timers -/

/-- SETTLE waits for the arc clear with its timer stopped, or enters RUN (R111). -/
theorem Sequencer.Sound.settleExpiry {s t : State} (h : s.sq.Sound) (hexec : exec .settleExpiry s = .next t) :
    t.sq.Sound := by
  obtain ⟨holder, -, quenchTimer, dischargeTimer, -⟩ := id h
  simp only [exec, execSettleExpiry] at hexec
  split at hexec
  · next due =>
    split at hexec <;> cases hexec
    · exact ⟨holder, by simp, quenchTimer, dischargeTimer, fun _ => .inl ⟨due.1, rfl⟩⟩
    · exact h.enter_live _ _ .run .empty (by rw [due.1]; trivial) (by decide) (by decide)
  · cases hexec; exact h

/-- MUTE waits for the arc clear with its timer stopped, or enters RUN (R113). -/
theorem Sequencer.Sound.quenchExpiry {s t : State} (h : s.sq.Sound) (hexec : exec .quenchExpiry s = .next t) :
    t.sq.Sound := by
  obtain ⟨holder, settleTimer, -, dischargeTimer, -⟩ := id h
  simp only [exec, execQuenchExpiry] at hexec
  split at hexec
  · next due =>
    split at hexec <;> cases hexec
    · exact ⟨holder, settleTimer, by simp, dischargeTimer, fun _ => .inr ⟨due.1, rfl⟩⟩
    · exact h.enter_live _ _ .run .empty (by rw [due.1]; trivial) (by decide) (by decide)
  · cases hexec; exact h

theorem Sequencer.Sound.dischargeExpiry {s t : State} (h : s.sq.Sound) (hexec : exec .dischargeExpiry s = .next t) :
    t.sq.Sound := by
  simp only [exec, execDischargeExpiry] at hexec
  split at hexec <;> cases hexec
  · next due => exact h.enter_destination _ _ due.1
  · exact h

/-! ### Reset -/

theorem reset_sequencerSound : Sequencer.reset.Sound := by
  simp [Sequencer.Sound, HolderSound, TimersSound, Sequencer.reset]

/-! ### Every command -/

theorem exec_sequencerSound (c : Instr) {s t : State} (h : s.sq.Sound) (hexec : exec c s = .next t) : t.sq.Sound := by
  cases c with
  | frameHeaderWrite w | dataSlotWrite slot w | frameEnd w | limitWordAWrite m e w | limitWordBWrite m e w
  | limitOneWordWrite m e w | dlExciterDriveRead x | dlTrimRead m x | dlGateRead m x | ownershipWordWrite m lanes w
  | headWindowWord0Read m x | headWindowWordRead m w x => cases hexec; exact h.of_kept
  | restart m lanes w => cases hexec; exact takeRequest_sequencerSound h .restart m lanes w
  | stop m lanes w => cases hexec; exact takeRequest_sequencerSound h .stop m lanes w
  | readmit m lanes w => cases hexec; exact takeRequest_sequencerSound h .readmit m lanes w
  | strikeClear m lanes w => cases hexec; exact takeRequest_sequencerSound h .strikeClear m lanes w
  | journalClear m lanes w => cases hexec; exact takeRequest_sequencerSound h .journalClear m lanes w
  | ownershipClear m lanes w => cases hexec; exact takeRequest_sequencerSound h .ownershipClear m lanes w
  | captureArm m lanes w => cases hexec; exact takeRequest_sequencerSound h .captureArm m lanes w
  | captureStop m lanes w => cases hexec; exact takeRequest_sequencerSound h .captureStop m lanes w
  | absorbedWrite m a lanes w => cases hexec; exact busWrite_sequencerSound h m a lanes w
  | ownershipWordRead m x =>
    simp only [exec, execOwnershipWordRead] at hexec
    split at hexec <;> cases hexec <;> exact h
  | cpS0Read x =>
    simp only [exec, execCpS0Read] at hexec
    split at hexec <;> cases hexec <;> exact h
  | captureStartAliasRead m x =>
    simp only [exec, execCaptureStartAliasRead] at hexec
    split at hexec <;> cases hexec <;> exact h
  | captureContinueAliasRead m x =>
    simp only [exec, execCaptureContinueAliasRead] at hexec
    split at hexec <;> cases hexec <;> exact h
  | frameTimeoutExpiry =>
    simp only [exec, execFrameTimeoutExpiry] at hexec
    split at hexec <;> cases hexec
    · have lost := lossDemand_sequencerSound (s := s.setTd { s.td with frameTimer := none, telemetryLost := true }) h
      exact lost.of_kept
    · exact h
  | evaluationCompletion =>
    simp only [exec, execEvaluationCompletion] at hexec
    split at hexec
    · cases hexec; exact h
    · exact Host.Outcome.next.inj hexec ▸ completeEvaluation_sequencerSound h _
  | holdOffExpiry =>
    simp only [exec, execHoldOffExpiry] at hexec
    split at hexec
    · cases hexec; exact h
    · obtain rfl := Host.Outcome.next.inj hexec
      exact h
  | arcLineAssert i =>
    simp only [exec, execArcLineAssert] at hexec
    split at hexec <;> cases hexec <;> exact h
  | arcLineDeassert i =>
    simp only [exec, execArcLineDeassert] at hexec
    split at hexec <;> cases hexec <;> exact h
  | arcQualifyExpiry i =>
    simp only [exec, execArcQualifyExpiry] at hexec
    split at hexec <;> cases hexec
    · exact arcEvent_sequencerSound (s := arcBegun i s) h i
    · exact h
  | arcReleaseExpiry i =>
    simp only [exec, execArcReleaseExpiry] at hexec
    split at hexec
    · split at hexec <;> cases hexec
      · exact h
      · exact arcClear_sequencerSound (s := arcEnded i s) h
    · cases hexec; exact h
  | stuckTimerExpiry i =>
    simp only [exec, execStuckTimerExpiry] at hexec
    split at hexec <;> cases hexec
    · exact tripDemands_sequencerSound (s := inputStuck i s) h _
    · exact h
  | strikeEntryAgeing =>
    simp only [exec, execStrikeEntryAgeing] at hexec
    split at hexec
    · cases hexec; exact h
    · split at hexec <;> cases hexec <;> exact h
  | interlockOpen =>
    simp only [exec, execInterlockOpen] at hexec
    split at hexec
    · cases hexec; exact h
    · split at hexec <;> cases hexec
      · exact h
      · exact tripDemands_sequencerSound (s := s.setPins { s.pins with interlockOpen := true }) h _
  | interlockClose =>
    simp only [exec, execInterlockClose] at hexec
    split at hexec
    · split at hexec <;> cases hexec
      · exact h
      · exact autoRestart_sequencerSound (s := s.setPins { s.pins with interlockOpen := false }) h
    · cases hexec; exact h
  | settleExpiry => exact h.settleExpiry hexec
  | quenchExpiry => exact h.quenchExpiry hexec
  | dischargeExpiry => exact h.dischargeExpiry hexec
  | resetAssert straps => cases hexec; exact reset_sequencerSound
  | resetRelease straps =>
    simp only [exec, execResetRelease] at hexec
    split at hexec <;> cases hexec <;> exact h
  | millisecondCounterTick =>
    simp only [exec, execMillisecondCounterTick] at hexec
    split at hexec <;> cases hexec <;> exact h

/-- Settles O6: a step is a command, each of which keeps the sequencer sound, or idles. -/
theorem stepsKeepTheSequencerSound : Obligations.StepsKeepTheSequencerSound := by
  intro s t holder timers hstep
  rcases step_cases hstep with rfl | ⟨c, rest, hexec⟩
  · exact ⟨holder, timers⟩
  · exact exec_sequencerSound c (s := { s with pending := rest }) ⟨holder, timers⟩ hexec

end Sys2Proof.Machine
end

section
/-! PROOF. The interlock: its opening is a trip demand, and its closing the auto-restart check (R120, R127). -/

namespace Sys2Proof.Machine

/-! ### The line -/

/-- The state in which the interlock line alone has moved. -/
def interlockMoved (isOpen : Bool) (s : State) : State := { s with pins := { s.pins with interlockOpen := isOpen } }

/-- Outside reset the closed line's opening is an INTERLOCK demand. -/
theorem exec_interlockOpen (s : State) (operating : s.operating) (closed : s.pins.interlockOpen = false) :
    exec .interlockOpen s = .next (tripDemand .interlock (interlockMoved true s)) := by
  have running : ¬ s.pins.resetAsserted = true := Bool.eq_false_iff.mp operating
  exact (if_neg (Bool.eq_false_iff.mp closed)).trans (if_neg running)

/-- Outside reset the open line's closing is followed by the auto-restart check. -/
theorem exec_interlockClose (s : State) (operating : s.operating) (opened : s.pins.interlockOpen = true) :
    exec .interlockClose s = .next (autoRestart (interlockMoved false s)) := by
  have running : ¬ s.pins.resetAsserted = true := Bool.eq_false_iff.mp operating
  exact (if_pos opened).trans (if_neg running)

/-! ### The opening -/

/-- Settles O40: the demand by the sequencer's state. -/
theorem interlockOpeningIsATripDemand : Obligations.InterlockOpeningIsATripDemand := by
  intro s t operating closed moved
  obtain rfl : interlockMoved true s = t := moved.symm
  rw [exec_interlockOpen s operating closed]
  refine ⟨fun live => ?_, fun discharge towardOff => ?_, fun tripped => ?_, fun off => ?_⟩
  · rw [tripDemand_live (interlockMoved true s) _ live]
  · rw [tripDemand_towardOff (interlockMoved true s) _ discharge towardOff]
    rfl
  · rw [tripDemand, tripDemands_tripped (interlockMoved true s) _ tripped.symm]
    rfl
  · rw [tripDemand_off (interlockMoved true s) _ off]

/-! ### The closing -/

/-- Settles O41: the check passes and the transmitter is restarted with its records, or the line alone moves. -/
theorem interlockClosingMayRestart : Obligations.InterlockClosingMayRestart := by
  intro s t operating opened moved
  obtain rfl : interlockMoved false s = t := moved.symm
  rw [exec_interlockClose s operating opened]
  obtain ⟨passes, fails⟩ := autoRestart_eq (interlockMoved false s)
  obtain ⟨fj, cap⟩ := performRestart_recorded true 0 (interlockMoved false s)
  refine ⟨fun restarts => ⟨_, congrArg _ (passes restarts), rfl, ?_, fj, cap, ?_⟩, fun stays => congrArg _ (fails stays)⟩
  · rw [performRestart_sq]
    rfl
  · rw [performRestart_bp]
    rfl

end Sys2Proof.Machine
end

section
/-! PROOF. The interval timers: an expired one leaves its state, or waits for a held arc (R111, R113, R114). -/

namespace Sys2Proof.Machine

/-- A running timer whose moment the counter has reached is due (log entry 5). -/
theorem timerDue_some {now moment : Word} {timer : Option Word} (past : (now - moment).toNat < 2 ^ 31)
    (running : timer = some moment) : timerDue now timer = true := by
  rw [running]
  exact decide_eq_true past

/-- An arc is held exactly while a filter is HELD or RELEASING (R90). -/
theorem arcHeld_iff_filter (a : ArcMonitor) :
    a.arcHeld = true ↔ ∃ i : Fin 3, a.inputs[i].filter = .held ∨ a.inputs[i].filter = .releasing := by
  simp only [arcHeld_iff, isHeld_iff]

theorem exec_settleExpiry (s : State) (settle : s.sq.state = .settle) (due : timerDue s.msCounter s.sq.settleTimer = true) :
    exec .settleExpiry s = .next (if s.am.arcHeld then { s with sq := { s.sq with settleTimer := none, waiting := true } }
      else s.entered .run .empty) := by
  rw [← enterState_eq s .run (by decide) .empty, apply_ite Host.Outcome.next]
  exact if_pos ⟨settle, due⟩

theorem exec_quenchExpiry (s : State) (mute : s.sq.state = .mute) (due : timerDue s.msCounter s.sq.quenchTimer = true) :
    exec .quenchExpiry s = .next (if s.am.arcHeld then { s with sq := { s.sq with quenchTimer := none, waiting := true } }
      else s.entered .run .empty) := by
  rw [← enterState_eq s .run (by decide) .empty, apply_ite Host.Outcome.next]
  exact if_pos ⟨mute, due⟩

theorem exec_dischargeExpiry (s : State) (discharge : s.sq.state = .discharge)
    (due : timerDue s.msCounter s.sq.dischargeTimer = true) :
    exec .dischargeExpiry s = .next (s.entered (destinationState s.sq.destination) .empty) := by
  have left : destinationState s.sq.destination ≠ .discharge := by cases s.sq.destination <;> decide
  rw [← enterState_eq s _ left .empty]
  exact if_pos ⟨discharge, due⟩

/-- Settles O42: each timer due in its own state. -/
theorem intervalExpiriesLeaveTheirState : Obligations.IntervalExpiriesLeaveTheirState := by
  intro moment s past
  refine ⟨fun settle running => ?_, fun mute running => ?_, fun discharge running => ?_⟩
  · simp only [exec_settleExpiry s settle (timerDue_some past running), arcHeld_iff_filter]
  · simp only [exec_quenchExpiry s mute (timerDue_some past running), arcHeld_iff_filter]
  · rw [exec_dischargeExpiry s discharge (timerDue_some past running)]
    exact ⟨fun tripped => by rw [tripped]; rfl, fun off => by rw [off]; rfl⟩

end Sys2Proof.Machine
end

section
/-! PROOF. RESTART and STOP: refused by the first failing check or by the state, or performed with their records (R121 to
R125). -/

namespace Sys2Proof.Machine

/-! ### The restart checks -/

theorem stuckCondition_true_iff (a : ArcMonitor) : a.stuckCondition = true ↔ ∃ i : Fin 3, a.inputs[i].stuck = true := by
  rw [← Bool.not_eq_false, stuckCondition_iff, not_forall]
  simp only [Bool.not_eq_false]

/-- The checks in their order, in the vocabulary of the statements (R122). -/
theorem restartCheck_eq (s : State) : restartCheck s =
    if s.td.telemetryLost then some .telemetryLoss
    else if sensorCondition s.td.channels then some .sensor
    else if s.pins.interlockOpen then some .interlock
    else if s.am.stuckCondition then some .arcStuck
    else if s.du.thermal then some .thermal
    else if s.du.cooling then some .cooling
    else if s.lt.effective.general.gateLimit < s.mu.admission.toList.countP (fun a => a.hot || a.sensor) then some .modules
    else none := rfl

/-! ### RESTART -/

theorem judgeRestart_refusedCause (m : Master) (s : State) (k : TripKind)
    (rest : s.sq.state = .off ∨ s.sq.state = .tripped) (fails : restartCheck s = some k) :
    judgeRestart m s = (s, .refusedCause k) := by
  rcases rest with rest | rest <;> simp only [judgeRestart, rest, fails]

theorem judgeRestart_refusedState (m : Master) (s : State) (notOff : s.sq.state ≠ .off)
    (notTripped : s.sq.state ≠ .tripped) : judgeRestart m s = (s, .refusedState) := by
  unfold judgeRestart
  cases hs : s.sq.state with
  | off => exact absurd hs notOff
  | tripped => exact absurd hs notTripped
  | settle | run | mute | discharge => rfl

theorem judgeRestart_accepted (m : Master) (s : State) (rest : s.sq.state = .off ∨ s.sq.state = .tripped)
    (passes : restartCheck s = none) : judgeRestart m s = (performRestart false (masterTag m) s, .accepted) := by
  rcases rest with rest | rest <;> simp only [judgeRestart, rest, passes]

/-- Settles O43: the first failing check, or the state, refuses. -/
theorem restartIsRefusedByTheFirstFailingCheck : Obligations.RestartIsRefusedByTheFirstFailingCheck := by
  intro m value k s operating commands
  refine ⟨fun rest first => ?_, fun notOff notTripped =>
    exec_judgedRequest rfl operating commands (judgeRestart_refusedState m s notOff notTripped)⟩
  have fails : restartCheck s = some k := by
    rw [restartCheck_eq]
    simp only [← stuckCondition_true_iff, ← stuckCondition_iff] at first
    rcases first with ⟨rfl, lost⟩ | ⟨rfl, lost, sensor⟩ | ⟨rfl, lost, sensor, interlock⟩ |
      ⟨rfl, lost, sensor, interlock, stuck⟩ | ⟨rfl, lost, sensor, interlock, stuck, thermal⟩ |
      ⟨rfl, lost, sensor, interlock, stuck, thermal, cooling⟩ |
      ⟨rfl, lost, sensor, interlock, stuck, thermal, cooling, modules⟩ <;>
      simp only [*, if_true, if_false, Bool.false_eq_true]
  exact exec_judgedRequest rfl operating commands (judgeRestart_refusedCause m s k rest fails)

/-! ### What a restart leaves -/

/-- What a restart leaves: SETTLE with an empty holder, the Mismatch Unit restarted, the strikes of a lockout gone, its records
added, and every other block as it stood (R123). -/
theorem performRestart_frame (automatic : Bool) (tag : Nat) (s : State) : performRestart automatic tag s = { s with
    sq := { (s.entered .settle .empty).sq with primary := none, secondary := [] }
    cu := (s.entered .settle .empty).cu
    am := { s.am with strikes :=
      if s.sq.primary = some .arcLockout ∨ .arcLockout ∈ s.sq.secondary then [] else s.am.strikes }
    mu := {
      v := 4095
      foldbackOpen := false
      outputCounter := 0
      moduleCounters := Vector.replicate 8 0
      admission := s.mu.admission.map fun a => { a with mismatch := false, gated := a.gated && (a.hot || a.sensor) } }
    fj := (s.restartRecorded automatic tag).fj
    cap := (s.restartRecorded automatic tag).cap } := by
  obtain ⟨fj, cap⟩ := performRestart_recorded automatic tag s
  apply State.eq_of_fields
  case h4 => rw [performRestart_mu, restarted_eq]
  case h5 => rw [performRestart_cu]; rfl
  case h6 => simp [performRestart_am, Sequencer.holds]
  case h7 => rw [performRestart_sq]; rfl
  case h8 => exact fj
  case h9 => exact cap
  all_goals simp

/-- Settles O44: the request is performed where no check fails, and a restart is the state its frame states. -/
theorem restartIsPerformedWhenEveryCheckPasses : Obligations.RestartIsPerformedWhenEveryCheckPasses := by
  refine ⟨fun m value s operating commands rest restartable => ?_, fun automatic tag s t performed => ?_⟩
  · exact exec_judgedRequest rfl operating commands
      (judgeRestart_accepted m s rest ((restartCheck_none s).mpr restartable))
  · rw [performed]
    exact performRestart_frame automatic tag s

/-! ### STOP -/

theorem judgeStop_live (m : Master) (s : State) (live : s.sq.state.live) : judgeStop m s =
    ((s.journalled { eventRecord s .stop 0 0 with extra := BitVec.ofNat 32 (masterTag m) }).entered .discharge .off,
      .accepted) := by
  rw [← enterState_discharge]
  unfold judgeStop
  cases hs : s.sq.state with
  | settle | run | mute => rfl
  | off | discharge | tripped => rw [hs] at live; exact live.elim

theorem judgeStop_refused (m : Master) (s : State) (notLive : ¬ s.sq.state.live) :
    judgeStop m s = (s, .refusedState) := by
  unfold judgeStop
  cases hs : s.sq.state with
  | settle | run | mute => rw [hs] at notLive; exact absurd trivial notLive
  | off | discharge | tripped => rfl

/-- Settles O45: the record and DISCHARGE toward OFF from a live state, refused elsewhere. -/
theorem stopDischargesTowardOff : Obligations.StopDischargesTowardOff := by
  intro m value s operating commands
  exact ⟨fun live => exec_judgedRequest rfl operating commands (judgeStop_live m s live),
    fun notLive => exec_judgedRequest rfl operating commands (judgeStop_refused m s notLive)⟩

end Sys2Proof.Machine
end

section
/-! PROOF. A completion's demands, entered by the sequencer's state after its records, and then the auto-restart check (R118,
R119, R127). -/

namespace Sys2Proof.Machine

/-! ### The demands entered -/

/-- The state in which a completion has adopted its results, added its records and entered its demands. -/
def demandsEntered (ev : Evaluation) (s : State) : State := tripDemands (demandsOf ev s) (journalCompletion ev s)

/-- The Mismatch Unit a completion leaves before any restart. -/
def mismatchAdopted (ev : Evaluation) (s : State) : MismatchUnit := adoptMismatch ev (s.sq.state == .run) s.mu

/-- The state with the records of a completion in its journal, and nothing else of the completion. -/
def completionRecorded (ev : Evaluation) (s : State) : State :=
  s.evaluationRecorded ev (mismatchAdopted ev s).v (mismatchAdopted ev s).admission

theorem settleCompletion_eq (ev : Evaluation) (s : State) : settleCompletion ev s = autoRestart (demandsEntered ev s) := rfl

theorem journalCompletion_alike (ev : Evaluation) (s : State) :
    SameRecording s (journalCompletion ev s) (completionRecorded ev s) := journalCompletion_recorded ev s

@[simp] theorem demandsEntered_mu (ev : Evaluation) (s : State) : (demandsEntered ev s).mu = mismatchAdopted ev s := by
  simp [demandsEntered, mismatchAdopted]

@[simp] theorem demandsEntered_td (ev : Evaluation) (s : State) :
    (demandsEntered ev s).td = { s.td with channels := adoptFractions ev s.td.channels } := by
  simp [demandsEntered]

/-- The blocks that the results, the records and the demands of a completion leave alone. -/
theorem demandsEntered_frame (ev : Evaluation) (s : State) : demandsEntered ev s = { s with
    td := { s.td with channels := (demandsEntered ev s).td.channels }
    du := { thermal := ev.thermal, hot := ev.hot, flowCounter := ev.flowCounter, cooling := ev.cooling }
    mu := (demandsEntered ev s).mu
    cu := (demandsEntered ev s).cu
    sq := (demandsEntered ev s).sq
    fj := (demandsEntered ev s).fj
    cap := (demandsEntered ev s).cap } := by
  apply State.eq_of_fields
  case h3 => simp [demandsEntered, adoptDerating]
  case h1 => simp
  all_goals simp [demandsEntered]

/-- Of a channel record a completion adopts the fraction and the derate-open flag alone. -/
theorem adoptFractions_frame (ev : Evaluation) (channels : Vector ChannelRecord 30) (c : Fin 30) :
    (adoptFractions ev channels)[c] = { channels[c] with
      fraction := (adoptFractions ev channels)[c].fraction, derateOpen := (adoptFractions ev channels)[c].derateOpen } := by
  simp only [adoptFractions, Fin.getElem_fin, Vector.getElem_ofFn]
  split <;> rfl

/-! ### The demands by the sequencer's state -/

/-- The TRIP record of a completion: the moment and the state it finds, and the number of secondary causes (R119). -/
def completionTrip (s : State) (k : TripKind) (ks : List TripKind) : Record := eventRecord s (.trip k) 0 ks.length

/-- Two states alike to the journal and the capture take an addition alike. -/
theorem journalled_congr {u v : State} (r : Record) (fj : u.fj = v.fj) (cap : u.cap = v.cap) (lt : u.lt = v.lt) :
    (u.journalled r).fj = (v.journalled r).fj ∧ (u.journalled r).cap = (v.journalled r).cap := by
  simp only [State.journalled, fj, cap, lt, and_self]

/-- In OFF, and with no demand, the records stand alone. -/
theorem demandsEntered_none (ev : Evaluation) (s : State) (none : s.sq.state = .off ∨ demandsOf ev s = []) :
    (demandsEntered ev s).sq = s.sq ∧ SameRecording s (demandsEntered ev s) (completionRecorded ev s) := by
  have kept : demandsEntered ev s = journalCompletion ev s := by
    rcases none with off | empty
    · exact tripDemands_off _ _ (by rw [journalCompletion_sq, off])
    · rw [demandsEntered, empty]
      rfl
  rw [kept, journalCompletion_sq]
  exact ⟨rfl, journalCompletion_alike ev s⟩

/-- A live sequencer is tripped by the first demand, the others its secondary causes, with one TRIP record. -/
theorem demandsEntered_live (ev : Evaluation) (s : State) (k : TripKind) (ks : List TripKind)
    (demands : demandsOf ev s = k :: ks) (live : s.sq.state.live) :
    (demandsEntered ev s).sq =
      (State.entered { s with sq := { s.sq with primary := some k, secondary := ks } } .discharge .tripped).sq ∧
    (demandsEntered ev s).cu = (journalCompletion ev s).cu.zero ∧
    (demandsEntered ev s).fj = ((completionRecorded ev s).journalled (completionTrip s k ks)).fj ∧
    (demandsEntered ev s).cap = ((completionRecorded ev s).journalled (completionTrip s k ks)).cap := by
  obtain ⟨nodup, few⟩ := demandsOf_nodup ev s
  have alike := journalCompletion_alike ev s
  have sq := journalCompletion_sq s ev
  have lt := journalCompletion_lt s ev
  rw [demands] at nodup few
  rw [demandsEntered, demands]
  generalize journalCompletion ev s = u at alike sq lt ⊢
  obtain ⟨fj, cap, table, ⟨ms, -⟩, -⟩ := alike
  rw [tripDemands_live u k ks (by rw [sq]; exact live) nodup (Nat.le_of_succ_le_succ few), enterState_discharge]
  have record : tripRecord (State.entered (u.setSq { u.sq.setPrimary k with secondary := ks }) .discharge .tripped) k
      u.sq.state = completionTrip s k ks := by
    simp [tripRecord, newRecord, State.entered, completionTrip, eventRecord, ms, sq]
  dsimp only
  rw [record, addRecord_eq]
  refine ⟨?_, rfl, journalled_congr _ fj cap table⟩
  simp [State.journalled, State.entered, ms, sq, lt, Sequencer.setPrimary]

/-- In DISCHARGE toward OFF the first demand turns the destination, the others the secondary causes, with one TRIP record. -/
theorem demandsEntered_towardOff (ev : Evaluation) (s : State) (k : TripKind) (ks : List TripKind)
    (demands : demandsOf ev s = k :: ks) (discharge : s.sq.state = .discharge) (towardOff : s.sq.destination ≠ .tripped) :
    (demandsEntered ev s).sq = { s.sq with primary := some k, secondary := ks, destination := .tripped } ∧
    (demandsEntered ev s).fj = ((completionRecorded ev s).journalled (completionTrip s k ks)).fj ∧
    (demandsEntered ev s).cap = ((completionRecorded ev s).journalled (completionTrip s k ks)).cap := by
  obtain ⟨nodup, few⟩ := demandsOf_nodup ev s
  have alike := journalCompletion_alike ev s
  have sq := journalCompletion_sq s ev
  rw [demands] at nodup few
  rw [demandsEntered, demands]
  generalize journalCompletion ev s = u at alike sq ⊢
  obtain ⟨fj, cap, table, ⟨ms, -⟩, -⟩ := alike
  rw [tripDemands_towardOff u k ks (by rw [sq]; exact discharge) (by rw [sq]; exact towardOff) nodup
    (Nat.le_of_succ_le_succ few)]
  have record : tripRecord (u.setSq { u.sq.setPrimary k with secondary := ks, destination := .tripped }) k .discharge =
      completionTrip s k ks := by
    simp [tripRecord, newRecord, completionTrip, eventRecord, ms, discharge]
  dsimp only
  rw [record, addRecord_eq]
  refine ⟨?_, journalled_congr _ fj cap table⟩
  simp [State.journalled, sq, Sequencer.setPrimary]

/-- Where a trip stands each demand is a secondary cause, if new and there is room, and no record is added. -/
theorem demandsEntered_tripped (ev : Evaluation) (s : State)
    (tripped : (s.sq.state = .discharge ∧ s.sq.destination = .tripped) ∨ s.sq.state = .tripped) :
    (demandsEntered ev s).sq = { s.sq with secondary := (demandsOf ev s).foldl (fun l k =>
      if s.sq.primary ≠ some k ∧ k ∉ l ∧ l.length < 4 then l ++ [k] else l) s.sq.secondary } ∧
    SameRecording s (demandsEntered ev s) (completionRecorded ev s) := by
  have alike := journalCompletion_alike ev s
  have sq := journalCompletion_sq s ev
  rw [demandsEntered]
  generalize journalCompletion ev s = u at alike sq ⊢
  generalize demandsOf ev s = ks
  obtain ⟨fj, cap, table, ⟨ms, -⟩, moment⟩ := alike
  rw [tripDemands_tripped u _ (by rw [sq]; exact tripped.symm), sq]
  exact ⟨rfl, fj, cap, table, ⟨ms, rfl⟩, moment⟩

/-- Settles O23: the demands by the sequencer's state, and the auto-restart check on what they leave. -/
theorem completionEntersItsDemandsInOrder : Obligations.CompletionEntersItsDemandsInOrder := by
  intro ev s hev
  obtain ⟨sq, fj, mu, -⟩ := completeEvaluation_settled s ev
  obtain ⟨restarts, stays⟩ := autoRestart_eq (demandsEntered ev s)
  refine ⟨completeEvaluation ev s, demandsEntered ev s, completionRecorded ev s, demandsOf ev s,
    exec_evaluationCompletion s ev hev, demandsEntered_frame ev s, fun c => ?_, ?_, ?_, ?_, fun none => ?_,
    fun k ks demands => ⟨fun live => ?_, fun discharge towardOff => ?_, fun trips => ?_⟩, fun tripped => ?_,
    fun fails => ?_, fun passes => ?_⟩
  · rw [demandsEntered_td]
    exact adoptFractions_frame ev s.td.channels c
  · rw [demandsEntered_mu]
    exact adoptMismatch_completed ev s
  · rw [demandsEntered_mu]
    rfl
  · rw [demandsEntered_mu]
    exact demandsOf_eq ev s
  · obtain ⟨kept, fj, cap, -⟩ := demandsEntered_none ev s none
    exact ⟨kept, fj, cap⟩
  · obtain ⟨tripped, cu, -⟩ := demandsEntered_live ev s k ks demands live
    exact ⟨tripped, by rw [cu]; rfl, by rw [cu]; rfl⟩
  · obtain ⟨turned, -⟩ := demandsEntered_towardOff ev s k ks demands discharge towardOff
    exact turned
  · rcases trips with live | ⟨discharge, towardOff⟩
    · obtain ⟨-, -, recorded⟩ := demandsEntered_live ev s k ks demands live
      exact recorded
    · obtain ⟨-, recorded⟩ := demandsEntered_towardOff ev s k ks demands discharge towardOff
      exact recorded
  · obtain ⟨joined, fj, cap, -⟩ := demandsEntered_tripped ev s tripped
    exact ⟨joined, fj, cap⟩
  · rw [sq, mu, fj, settleCompletion_eq, stays fails]
    exact ⟨rfl, rfl, rfl⟩
  · rw [sq, mu, fj, settleCompletion_eq, restarts passes]
    exact ⟨rfl, rfl, rfl⟩

end Sys2Proof.Machine
end

section
/-! PROOF. The frame record of a completion, and the capture that takes it as the completion's own records leave it (R171, R172,
R176). -/

namespace Sys2Proof.Machine

/-! ### The records the capture takes -/

/-- The state whose capture a completion's frame record joins: with the evaluation's records alone, with the TRIP record after
them, or with the records of an automatic restart, by the sequencer found and the one left. -/
def CapturedFrom (s recorded : State) (u : MismatchUnit) (after : Sequencer) (captured : State) : Prop :=
  (s.sq.state = .off ∨ (s.sq.state.live ∧ after.state ≠ .discharge) ∨
    (s.sq.state = .discharge ∧ (s.sq.destination = .tripped ∨ after.destination ≠ .tripped)) ∨
    (s.sq.state = .tripped ∧ after.state = .tripped) → captured = recorded) ∧
  ((s.sq.state.live ∧ after.state = .discharge) ∨
    (s.sq.state = .discharge ∧ s.sq.destination ≠ .tripped ∧ after.destination = .tripped) →
    ∃ k, after.primary = some k ∧ captured = recorded.journalled (eventRecord s (.trip k) 0 after.secondary.length)) ∧
  (s.sq.state = .tripped → after.state ≠ .tripped →
    captured = State.restartRecorded { recorded with mu := u } true 0)

/-- A completion that leaves the state and the destination adds no record of its own. -/
theorem capturedFrom_kept {s recorded : State} {u : MismatchUnit} {after : Sequencer} (state : after.state = s.sq.state)
    (destination : after.destination = s.sq.destination) : CapturedFrom s recorded u after recorded := by
  refine ⟨fun _ => rfl, ?_, fun tripped left => absurd (state.trans tripped) left⟩
  rintro (⟨live, discharge⟩ | ⟨-, towardOff, toward⟩)
  · rw [← state, discharge] at live
    exact live.elim
  · exact absurd (destination.symm.trans toward) towardOff

/-- A completion that trips adds its TRIP record. -/
theorem capturedFrom_trip {s recorded : State} {u : MismatchUnit} {after : Sequencer} {k : TripKind}
    (trips : (s.sq.state.live ∧ after.state = .discharge) ∨
      (s.sq.state = .discharge ∧ s.sq.destination ≠ .tripped ∧ after.destination = .tripped))
    (primary : after.primary = some k) :
    CapturedFrom s recorded u after (recorded.journalled (completionTrip s k after.secondary)) := by
  refine ⟨fun alone => ?_, fun _ => ⟨k, primary, rfl⟩, fun tripped => ?_⟩
  · rcases trips with ⟨live, discharge⟩ | ⟨discharge, towardOff, toward⟩
    · cases hs : s.sq.state <;> simp [hs, discharge, SeqState.live] at live alone
    · simp [discharge, towardOff, toward, SeqState.live] at alone
  · simp [tripped, SeqState.live] at trips

/-- A completion that leaves TRIPPED adds the records of an automatic restart. -/
theorem capturedFrom_restart {s recorded : State} {u : MismatchUnit} {after : Sequencer} (tripped : s.sq.state = .tripped)
    (left : after.state ≠ .tripped) :
    CapturedFrom s recorded u after (State.restartRecorded { recorded with mu := u } true 0) := by
  refine ⟨fun alone => ?_, fun trips => ?_, fun _ _ => rfl⟩
  · simp [tripped, left, SeqState.live] at alone
  · simp [tripped, SeqState.live] at trips

/-- The records of an automatic restart on what the demands left are those on the evaluation's records, with the Mismatch Unit
that the completion adopted. -/
theorem performRestart_captured {s u v : State} (alike : SameRecording s u v) (primary : u.sq.primary = v.sq.primary) :
    (performRestart true 0 u).cap = (State.restartRecorded { v with mu := u.mu } true 0).cap := by
  have restart : SameRecording s u { v with mu := u.mu } := alike
  obtain ⟨-, cap⟩ := performRestart_recorded true 0 u
  obtain ⟨-, recorded⟩ := restartRecorded_congr restart rfl primary true 0
  exact cap.trans recorded

/-- The capture as a completion's own records leave it, before its frame record. -/
theorem settleCompletion_captured (ev : Evaluation) (s : State) : ∃ captured,
    (settleCompletion ev s).cap = captured.cap ∧
    CapturedFrom s (completionRecorded ev s) (mismatchAdopted ev s) (settleCompletion ev s).sq captured := by
  by_cases tripped : s.sq.state = .tripped
  · obtain ⟨joined, alike⟩ := demandsEntered_tripped ev s (.inr tripped)
    rw [settleCompletion_eq]
    by_cases restarts : (demandsEntered ev s).autoRestarts
    · have primary : (demandsEntered ev s).sq.primary = (completionRecorded ev s).sq.primary := by
        rw [joined, completionRecorded, evaluationRecorded_sq]
      have cap := performRestart_captured alike primary
      rw [demandsEntered_mu] at cap
      rw [(autoRestart_eq _).1 restarts, performRestart_sq]
      exact ⟨_, cap, capturedFrom_restart tripped (by simp [Sequencer.enter])⟩
    · obtain ⟨-, cap, -⟩ := alike
      rw [(autoRestart_eq _).2 restarts, joined]
      exact ⟨_, cap, capturedFrom_kept rfl rfl⟩
  · rw [settleCompletion_notTripped s ev tripped, ← demandsEntered]
    by_cases none : s.sq.state = .off ∨ demandsOf ev s = []
    · obtain ⟨kept, -, cap, -⟩ := demandsEntered_none ev s none
      rw [kept]
      exact ⟨_, cap, capturedFrom_kept rfl rfl⟩
    · obtain ⟨notOff, some⟩ := not_or.mp none
      obtain ⟨k, ks, demands⟩ := List.exists_cons_of_ne_nil some
      by_cases discharge : s.sq.state = .discharge
      · by_cases toward : s.sq.destination = .tripped
        · obtain ⟨joined, -, cap, -⟩ := demandsEntered_tripped ev s (.inl ⟨discharge, toward⟩)
          rw [joined]
          exact ⟨_, cap, capturedFrom_kept rfl rfl⟩
        · obtain ⟨turned, -, cap⟩ := demandsEntered_towardOff ev s k ks demands discharge toward
          rw [turned]
          exact ⟨_, cap, capturedFrom_trip (.inr ⟨discharge, toward, rfl⟩) rfl⟩
      · have live : s.sq.state.live := by
          cases hs : s.sq.state <;> simp_all [SeqState.live]
        obtain ⟨entered, -, -, cap⟩ := demandsEntered_live ev s k ks demands live
        rw [entered]
        exact ⟨_, cap, capturedFrom_trip (.inl ⟨live, rfl⟩) rfl⟩

/-! ### The frame record -/

theorem tripDemands_pattern (ks : List TripKind) (s : State) : (tripDemands ks s).cap.pattern = s.cap.pattern := by
  unfold tripDemands
  cases ks with
  | nil => rfl
  | cons k ks =>
    dsimp only
    split
    · rw [addRecord_pattern, enterDemands_cap]
    · rw [enterDemands_cap]

theorem autoRestart_pattern (s : State) : (autoRestart s).cap.pattern = s.cap.pattern := by
  rcases autoRestart_cases s with kept | ⟨-, restarted⟩
  · rw [kept]
  · rw [restarted, performRestart_pattern]

/-- No record of a completion moves the capture's pattern. -/
theorem settleCompletion_pattern (ev : Evaluation) (s : State) : (settleCompletion ev s).cap.pattern = s.cap.pattern := by
  rw [settleCompletion, autoRestart_pattern, tripDemands_pattern, journalCompletion_pattern]

/-- The frame record of a completion (R171). -/
def completionFrame (ev : Evaluation) (s : State) : FrameRecord :=
  frameRecord s.cap.pattern ev.snapshot.seq (settleCompletion ev s).sq.state (settleCompletion ev s).cu.e
    (adoptFractions ev s.td.channels)

theorem completeEvaluation_append (ev : Evaluation) (s : State) :
    (completeEvaluation ev s).cap = (settleCompletion ev s).cap.append (completionFrame ev s) := by
  rw [completeEvaluation_cap, settleCompletion_pattern]
  rfl

/-- The frame record shows the evaluation's sequence number, the sequencer state and E that the completion leaves, and the
values of the pattern's channels. -/
theorem completionFrame_fields (ev : Evaluation) (s : State) :
    (completionFrame ev s).seq = ev.snapshot.seq ∧
    (completionFrame ev s).seqState = (completeEvaluation ev s).sq.state ∧
    (completionFrame ev s).mark = false ∧
    (completionFrame ev s).e = (completeEvaluation ev s).cu.e ∧
    (completionFrame ev s).values = (patternChannels s.cap.pattern).map fun c => s.td.channels[c].value := by
  obtain ⟨sq, -⟩ := completeEvaluation_settled s ev
  obtain ⟨-, -, e, -⟩ := completeEvaluation_ceilings s ev
  rw [sq, e, completionFrame]
  generalize settleCompletion ev s = u
  refine ⟨rfl, rfl, rfl, rfl, List.map_congr_left fun c _ => ?_⟩
  obtain ⟨value, -⟩ := adoptFractions_value ev s.td.channels c
  exact value

/-- A frame record as the capture stores it: in POST the first one after the trigger carries the mark (R176). -/
def CaptureUnit.marked (c : CaptureUnit) (r : FrameRecord) : FrameRecord :=
  { r with mark := decide (c.state = .post ∧ c.postRemaining = c.postCount) }

theorem marked_fields (c : CaptureUnit) (r : FrameRecord) : (c.marked r).seq = r.seq ∧
    (c.marked r).seqState = r.seqState ∧ (c.marked r).e = r.e ∧ (c.marked r).values = r.values := ⟨rfl, rfl, rfl, rfl⟩

theorem append_stopped (c : CaptureUnit) (r : FrameRecord) (stopped : c.state = .idle ∨ c.state = .frozen) :
    c.append r = c := by
  rcases stopped with stopped | stopped <;> rw [CaptureUnit.append, stopped]

theorem append_armed (c : CaptureUnit) (r : FrameRecord) (unmarked : r.mark = false) (armed : c.state = .armed) :
    (c.marked r).mark = false ∧ c.append r = { c with ring := c.push (c.marked r) } := by
  have same : c.marked r = r := by
    simp [CaptureUnit.marked, armed, ← unmarked]
  rw [same, CaptureUnit.append, armed]
  exact ⟨unmarked, rfl⟩

theorem append_post (c : CaptureUnit) (r : FrameRecord) (post : c.state = .post) :
    (c.marked r).mark = decide (c.postRemaining = c.postCount) ∧ c.append r = { c with
      ring := c.push (c.marked r)
      preTrigger := if c.ring.length < c.capacity then c.preTrigger else c.preTrigger - 1
      postRemaining := c.postRemaining - 1
      state := if c.postRemaining - 1 = 0 then .frozen else .post } := by
  have mark : (c.postRemaining == c.postCount) = decide (c.state = .post ∧ c.postRemaining = c.postCount) := by
    rw [post, Bool.beq_eq_decide_eq]
    simp
  rw [CaptureUnit.append, post, mark]
  simp only [CaptureUnit.marked, post, true_and]

/-- Settles O26: the frame record is appended to the capture as the completion's own records leave it. -/
theorem completionAppendsItsFrameRecord : Obligations.CompletionAppendsItsFrameRecord := by
  intro ev s hev
  obtain ⟨sq, -⟩ := completeEvaluation_settled s ev
  obtain ⟨captured, cap, alone, tripped, restarted⟩ := settleCompletion_captured ev s
  obtain ⟨seq, seqState, unmarked, e, values⟩ := completionFrame_fields ev s
  obtain ⟨markedSeq, markedState, markedE, markedValues⟩ := marked_fields captured.cap (completionFrame ev s)
  have appended := completeEvaluation_append ev s
  rw [cap] at appended
  rw [← sq] at alone tripped restarted
  refine ⟨completeEvaluation ev s, completionRecorded ev s, captured, mismatchAdopted ev s,
    captured.cap.marked (completionFrame ev s), exec_evaluationCompletion s ev hev, adoptMismatch_completed ev s, rfl,
    alone, tripped, restarted, markedSeq.trans seq, markedState.trans seqState, markedE.trans e,
    markedValues.trans values, fun stopped => appended.trans (append_stopped _ _ stopped), fun armed => ?_,
    fun post => ?_⟩
  · obtain ⟨mark, append⟩ := append_armed captured.cap (completionFrame ev s) unmarked armed
    exact ⟨mark, appended.trans append⟩
  · obtain ⟨mark, append⟩ := append_post captured.cap (completionFrame ev s) post
    exact ⟨mark, appended.trans append⟩

end Sys2Proof.Machine
end

section
/-! PROOF. Limit writes: word A is staged, a word B or a one-word entry forms an update, and the update joins the pending
set or takes effect at once (R138 to R146). -/

namespace Sys2Proof.Machine

/-! ### The staging holders -/

theorem staging_commands {m : Master} (b : BusPassage) (commands : m.commands) :
    b.staging m = if m = .cp then b.stagingCp else b.stagingSp := by
  cases m with
  | cp | sp => rfl
  | ts | dl => exact commands.elim

theorem setStaging_commands {m : Master} (b : BusPassage) (x : Option (TwoWordEntry × Word)) (commands : m.commands) :
    b.setStaging m x = if m = .cp then { b with stagingCp := x } else { b with stagingSp := x } := by
  cases m with
  | cp | sp => rfl
  | ts | dl => exact commands.elim

/-- The word A that a word B completes: the staged one of this entry, or else the newest (R139). -/
def completedWordA (held : Option (TwoWordEntry × Word)) (l : LimitTable) (e : TwoWordEntry) : Word :=
  match held with
  | some (other, staged) => if other = e then staged else newestWordA l e
  | none => newestWordA l e

/-- The passage after a word B: a holder of this entry is spent, and any other stands (R139). -/
def BusPassage.spent (b : BusPassage) (m : Master) (e : TwoWordEntry) : BusPassage :=
  if (b.staging m).map Prod.fst = some e then b.setStaging m none else b

/-- A word B hands over the update it forms, with the holder spent. -/
theorem formWordB_eq (m : Master) (e : TwoWordEntry) (w : Word) (s : State) : formWordB m e w s =
    handOver (.two e (completedWordA (s.bp.staging m) s.lt e) w) (s.setBp (s.bp.spent m e)) := by
  unfold formWordB completedWordA BusPassage.spent
  cases held : s.bp.staging m with
  | none => rfl
  | some x =>
    obtain ⟨other, staged⟩ := x
    by_cases same : other = e
    · simp only [same, if_true, Option.map_some]
    · simp only [same, if_false, Option.map_some, Option.some.injEq]
      rfl

theorem spent_commands {m : Master} (b : BusPassage) (e : TwoWordEntry) (commands : m.commands) : b.spent m e =
    if ((if m = .cp then b.stagingCp else b.stagingSp).map Prod.fst = some e) then
      (if m = .cp then { b with stagingCp := none } else { b with stagingSp := none })
    else b := by
  rw [BusPassage.spent, staging_commands b commands, setStaging_commands b none commands]

/-! ### Writes that are interpreted -/

/-- Outside reset a full-lane write by a commanding master is stored and then taken (R131, R182). -/
theorem limitWrite_interpreted {m : Master} {s : State} (offset : Nat) (w : Word) (take : State → State)
    (operating : s.operating) (commands : m.commands) : limitWrite m 0xF offset w take s =
      take (s.forwardWrite (regionAddress s offset) 0xF w) := by
  have interpreted : limitInterpreted m 0xF = true := by
    cases m with
    | cp | sp => rfl
    | ts | dl => exact commands.elim
  unfold limitWrite
  dsimp only
  rw [if_neg (Bool.eq_false_iff.mp operating), if_pos interpreted]

theorem exec_limitWordAWrite {m : Master} {s : State} (e : TwoWordEntry) (w : Word) (operating : s.operating)
    (commands : m.commands) : exec (.limitWordAWrite m e w) s =
      .next (stageWordA m e w (s.forwardWrite (regionAddress s (wordAOffset e)) 0xF w)) :=
  congrArg Host.Outcome.next (limitWrite_interpreted _ w _ operating commands)

/-- A word B is stored, and the update it forms is handed over with the holder spent. -/
theorem exec_limitWordBWrite {m : Master} {s : State} (e : TwoWordEntry) (w : Word) (operating : s.operating)
    (commands : m.commands) : exec (.limitWordBWrite m e w) s =
      .next (handOver (.two e (completedWordA (s.bp.staging m) s.lt e) w) { s with
        bp := s.bp.spent m e, mem := s.mem.writeWord (regionAddress s (wordBOffset e)) 0xF w }) :=
  congrArg Host.Outcome.next ((limitWrite_interpreted _ w _ operating commands).trans (formWordB_eq _ _ _ _))

theorem exec_limitOneWordWrite {m : Master} {s : State} (e : OneWordEntry) (w : Word) (operating : s.operating)
    (commands : m.commands) : exec (.limitOneWordWrite m e w) s =
      .next (handOver (.one e w) { s with
        bp := s.bp, mem := s.mem.writeWord (regionAddress s (oneWordOffset e)) 0xF w }) :=
  congrArg Host.Outcome.next (limitWrite_interpreted _ w _ operating commands)

/-- Settles O27: the word is stored, and then loads the writing master's holder. -/
theorem wordAIsStaged : Obligations.WordAIsStaged := by
  intro m entry w s operating wf commands
  refine ⟨_, exec_limitWordAWrite entry w operating commands, ?_, storesWord_of_writeWord _ w wf rfl⟩
  rw [← setStaging_commands s.bp (some (entry, w)) commands]
  rfl

/-! ### Updates that join the pending set -/

/-- Unless telemetry is lost with no evaluation in flight, an update joins the pending set (R142). -/
theorem handOver_joins (x : Update) (s : State)
    (waits : s.td.telemetryLost = false ∨ s.cu.evaluation.isSome = true) :
    handOver x s = { s with lt := { s.lt with pendingSet := s.lt.pendingSet.insert x } } := by
  refine if_neg fun now => ?_
  simp only [Bool.and_eq_true, Bool.not_eq_true', State.inFlight] at now
  obtain ⟨lost, idle⟩ := now
  simp [lost, idle] at waits

/-- An entry of a vector other than the one replaced stands. -/
theorem getElem_set_of_ne {α : Type} {n : Nat} (v : Vector α n) (i k : Fin n) (x : α) (different : k ≠ i) :
    (v.set i x)[k] = v[k] :=
  Vector.getElem_set_ne i.isLt k.isLt fun same => different (Fin.ext same.symm)

/-- The update of an entry in the set after one joined: the joined words at its entry, and every other as before. -/
theorem insert_two (p : PendingUpdates) (e : TwoWordEntry) (a b : Word) :
    (p.insert (.two e a b)).two e = some (a, b) ∧
    (∀ other, other ≠ e → (p.insert (.two e a b)).two other = p.two other) ∧
    p.insert (.two e a b) = { p with
      channels := (p.insert (.two e a b)).channels, general := (p.insert (.two e a b)).general } := by
  cases e with
  | channel c =>
    refine ⟨Vector.getElem_set_self _, fun other different => ?_, rfl⟩
    cases other with
    | channel d => exact getElem_set_of_ne _ c d _ fun same => different (congrArg _ same)
    | general h => rfl
  | general g =>
    refine ⟨Vector.getElem_set_self _, fun other different => ?_, rfl⟩
    cases other with
    | channel d => rfl
    | general h => exact getElem_set_of_ne _ g h _ fun same => different (congrArg _ same)

/-- Settles O28: the update is formed with the holder's word A or the newest, and joins the pending set. -/
theorem wordBPairsWithItsWordA : Obligations.WordBPairsWithItsWordA := by
  intro m entry a w s operating wf commands waits paired
  have hexec := exec_limitWordBWrite entry w operating commands
  have word : a = completedWordA (s.bp.staging m) s.lt entry := by
    rw [staging_commands s.bp commands]
    exact paired
  rw [handOver_joins _ _ (by exact waits), ← word, spent_commands _ _ commands] at hexec
  obtain ⟨joined, others, frame⟩ := insert_two s.lt.pendingSet entry a w
  exact ⟨_, hexec, rfl, storesWord_of_writeWord _ w wf rfl, joined, others, frame, rfl⟩

/-! ### Updates that take effect at once -/

/-- A table that takes effect outside an evaluation writes the channel records, the strike list, and, with its DERATE closes,
the journal and the capture. -/
theorem takeEffectNow_frame (t : EffectiveTable) (s : State) : takeEffectNow t s = { s with
    td := { s.td with channels := (takeEffectNow t s).td.channels }
    lt := { s.lt with effective := t }
    am := { s.am with strikes := strikesKept s.msCounter s.lt.effective.general t.general s.am.strikes }
    fj := (takeEffectNow t s).fj
    cap := (takeEffectNow t s).cap } := by
  apply State.eq_of_fields
  case h1 =>
    rw [takeEffectNow_td]
  case h2 => exact takeEffectNow_lt t s
  case h6 => exact takeEffectNow_am t s
  all_goals simp

/-- While telemetry is lost with no evaluation in flight, an update puts its table into effect at once; the passage and memory
have no part in it (R142). -/
theorem handOver_atOnce (x : Update) (s : State) (b : BusPassage) (mem : Memory) (lost : s.td.telemetryLost = true)
    (idle : s.cu.evaluation = none) : ∃ t, handOver x { s with bp := b, mem := mem } = t ∧
    t = { s with
      td := { s.td with channels := t.td.channels }
      lt := { s.lt with effective := s.lt.effective.apply x }
      am := { s.am with
        strikes := strikesKept s.msCounter s.lt.effective.general (s.lt.effective.apply x).general s.am.strikes }
      fj := t.fj
      cap := t.cap
      bp := b
      mem := mem } ∧
    RefreshedAtOnce (s.lt.effective.apply x) s.td.channels t.td.channels ∧
    t.fj = (State.deratesClosed { s with lt := { s.lt with effective := s.lt.effective.apply x } } s.td.channels).fj ∧
    t.cap = (State.deratesClosed { s with lt := { s.lt with effective := s.lt.effective.apply x } } s.td.channels).cap := by
  have now : handOver x { s with bp := b, mem := mem } =
      takeEffectNow (s.lt.effective.apply x) { s with bp := b, mem := mem } := by
    refine if_pos ?_
    simp [State.inFlight, lost, idle]
  refine ⟨_, now, takeEffectNow_frame _ _, ?_, ?_⟩
  · rw [takeEffectNow_td]
    exact refreshRecordNow_refreshed _ _
  · obtain ⟨fj, cap⟩ := takeEffectNow_recorded (s.lt.effective.apply x) { s with bp := b, mem := mem }
    obtain ⟨fj', cap'⟩ := deratesClosed_congr s
      { s with bp := b, mem := mem, lt := { s.lt with effective := s.lt.effective.apply x } }
      { s with lt := { s.lt with effective := s.lt.effective.apply x } } s.td.channels
      ⟨rfl, rfl, rfl, ⟨rfl, rfl⟩, rfl, rfl⟩
    exact ⟨fj.trans fj', cap.trans cap'⟩

/-- The curves after an update of a coarse entry: its curve has the clamped entry, and the others stand. -/
theorem curve_apply_coarse (t : EffectiveTable) (curve other : Curve) (i : Fin 16) (w : Word) :
    (t.apply (.one (.coarse curve i) w)).curve other =
      if other = curve then (t.curve curve).set i (clampCoarse w) else t.curve other := by
  cases curve <;> cases other <;> rfl

/-- The table after a one-word update: its entry holds the clamped word, and every other entry stands (R145). -/
theorem apply_one (t : EffectiveTable) (e : OneWordEntry) (w : Word) :
    effectiveOneWord (t.apply (.one e w)) e = (match e with
      | .coarse _ _ => coarseWord (clampCoarse w)
      | .fine _ => fineWord (clampFine w)
      | .summary _ => mapWord (clampMap w)) ∧
    (∀ other, other ≠ e → effectiveOneWord (t.apply (.one e w)) other = effectiveOneWord t other) ∧
    (t.apply (.one e w)).channels = t.channels ∧ (t.apply (.one e w)).general = t.general := by
  cases e with
  | coarse curve i =>
    refine ⟨?_, fun other different => ?_, by cases curve <;> rfl, by cases curve <;> rfl⟩
    · simp only [effectiveOneWord, curve_apply_coarse, if_true]
      exact congrArg coarseWord (Vector.getElem_set_self _)
    · cases other with
      | coarse curve' k =>
        simp only [effectiveOneWord, curve_apply_coarse]
        split
        · next same =>
          subst same
          exact congrArg coarseWord (getElem_set_of_ne _ i k _ fun same => different (congrArg _ same))
        · rfl
      | fine k | summary k => cases curve <;> rfl
  | fine i =>
    refine ⟨congrArg fineWord (Vector.getElem_set_self _), fun other different => ?_, rfl, rfl⟩
    cases other with
    | fine k => exact congrArg fineWord (getElem_set_of_ne _ i k _ fun same => different (congrArg _ same))
    | coarse curve k => cases curve <;> rfl
    | summary k => rfl
  | summary i =>
    refine ⟨congrArg mapWord (Vector.getElem_set_self _), fun other different => ?_, rfl, rfl⟩
    cases other with
    | summary k => exact congrArg mapWord (getElem_set_of_ne _ i k _ fun same => different (congrArg _ same))
    | coarse curve k => cases curve <;> rfl
    | fine k => rfl

/-- The table after a word B: its entry holds the clamped words, and every other entry stands (R145). -/
theorem apply_two (t : EffectiveTable) (e : TwoWordEntry) (a b : Word) :
    t.apply (.two e a b) = { t with
      channels := (t.apply (.two e a b)).channels, general := (t.apply (.two e a b)).general } ∧
    (∀ c : Fin 30, (t.apply (.two e a b)).channels[c] = if e = .channel c then clampChannel a b else t.channels[c]) ∧
    (t.apply (.two e a b)).general = (match e with
      | .channel _ => t.general
      | .general g => clampGeneral g a b t.general) := by
  cases e with
  | channel c =>
    refine ⟨rfl, fun d => ?_, rfl⟩
    simp only [EffectiveTable.apply, Fin.getElem_fin, Vector.getElem_set, TwoWordEntry.channel.injEq, Fin.ext_iff]
  | general g => exact ⟨rfl, fun _ => rfl, rfl⟩

/-- Settles O29: the update joins the pending set, or takes effect at once and leaves WINDOW and with it the strikes. -/
theorem oneWordUpdatesAreHandedOver : Obligations.OneWordUpdatesAreHandedOver := by
  intro m entry w s operating wf commands
  have hexec := exec_limitOneWordWrite entry w operating commands
  by_cases lost : s.td.telemetryLost = true ∧ s.cu.evaluation = none
  · obtain ⟨lost, idle⟩ := lost
    obtain ⟨written, others, channels, general⟩ := apply_one s.lt.effective entry w
    obtain ⟨t, handed, frame, refreshed, fj, cap⟩ := handOver_atOnce (.one entry w) s s.bp
      (s.mem.writeWord (regionAddress s (oneWordOffset entry)) 0xF w) lost idle
    rw [handed] at hexec
    rw [general, strikesKept_self] at frame
    have table : t.lt.effective = s.lt.effective.apply (.one entry w) := by rw [frame]
    have limits : t.lt = { s.lt with effective := s.lt.effective.apply (.one entry w) } := by rw [frame]
    refine ⟨t, hexec, storesWord_of_writeWord _ w wf (by rw [frame]), fun waits => ?_, fun _ _ => ?_⟩
    · simp [lost, idle] at waits
    · rw [table, limits]
      refine ⟨?_, refreshed, fj, cap, written, others, channels, general⟩
      rw [frame]
  · have waits : s.td.telemetryLost = false ∨ s.cu.evaluation.isSome = true := by
      by_contra neither
      simp_all
    rw [handOver_joins _ _ (by exact waits)] at hexec
    exact ⟨_, hexec, storesWord_of_writeWord _ w wf rfl, fun _ => rfl, fun isLost idle => absurd ⟨isLost, idle⟩ lost⟩

/-- Settles O30: the update is formed with the holder's word A or the newest, and takes effect at once. -/
theorem wordBTakesEffectWhileTelemetryIsLost : Obligations.WordBTakesEffectWhileTelemetryIsLost := by
  intro m entry a w s operating wf commands lost idle paired
  have hexec := exec_limitWordBWrite entry w operating commands
  have word : a = completedWordA (s.bp.staging m) s.lt entry := by
    rw [staging_commands s.bp commands]
    exact paired
  rw [← word, spent_commands _ _ commands] at hexec
  obtain ⟨entries, channels, general⟩ := apply_two s.lt.effective entry a w
  obtain ⟨t, handed, frame, refreshed, fj, cap⟩ := handOver_atOnce (.two entry a w) s _
    (s.mem.writeWord (regionAddress s (wordBOffset entry)) 0xF w) lost idle
  rw [handed] at hexec
  have limits : t.lt = { s.lt with effective := s.lt.effective.apply (.two entry a w) } := by rw [frame]
  refine ⟨t, hexec, storesWord_of_writeWord _ w wf (by rw [frame]), ?_, ?_⟩
  · rw [limits, ← entries]
    rw [frame]
  · rw [limits]
    exact ⟨channels, general, by rw [frame], refreshed, fj, cap⟩

end Sys2Proof.Machine
end

section
/-! PROOF. The pending-update set takes effect entry by entry (R143, R145). -/

namespace Sys2Proof.Machine

/-! ### The general entries -/

/-- The two words in effect of a general entry. -/
def generalWords (x : General) (g : Fin 13) : Word × Word := (generalWordA x g, generalWordB x g)

/-- The words of a clamped general entry are made from the written words alone. -/
theorem generalWords_clampGeneral (g : Fin 13) (a b : Word) (x y : General) :
    generalWords (clampGeneral g a b x) g = generalWords (clampGeneral g a b y) g := by
  fin_cases g <;> rfl

/-- An update of one general entry leaves the words of every other: no field belongs to two entries. -/
theorem generalWords_clampGeneral_eq (g h : Fin 13) (a b : Word) (x : General) : generalWords (clampGeneral h a b x) g =
    if h = g then generalWords (clampGeneral g a b x) g else generalWords x g := by
  fin_cases h <;> fin_cases g <;> rfl

theorem generalWords_applyGeneral_of_ne {g h : Fin 13} (different : h ≠ g) (u : Vector (Option (Word × Word)) 13)
    (x : General) : generalWords (applyGeneral u x h) g = generalWords x g := by
  unfold applyGeneral
  split
  · rfl
  · rw [generalWords_clampGeneral_eq, if_neg different]

/-- What a pending update makes of its entry depends on what it found of that entry alone. -/
theorem generalWords_applyGeneral_congr {g : Fin 13} (u : Vector (Option (Word × Word)) 13) {x y : General}
    (same : generalWords x g = generalWords y g) :
    generalWords (applyGeneral u x g) g = generalWords (applyGeneral u y g) g := by
  unfold applyGeneral
  split
  · exact same
  · exact generalWords_clampGeneral g _ _ x y

theorem generalWords_applyGeneral_twice (g : Fin 13) (u : Vector (Option (Word × Word)) 13) (x : General) :
    generalWords (applyGeneral u (applyGeneral u x g) g) g = generalWords (applyGeneral u x g) g := by
  cases pending : u[g] with
  | none => simp only [applyGeneral, pending]
  | some w =>
    simp only [applyGeneral, pending]
    exact generalWords_clampGeneral g _ _ _ _

/-- Pending updates taken in turn give an entry among them its own update, and leave the words of any other. -/
theorem generalWords_foldl (u : Vector (Option (Word × Word)) 13) (l : List (Fin 13)) (x : General) (g : Fin 13) :
    generalWords (l.foldl (applyGeneral u) x) g =
      if g ∈ l then generalWords (applyGeneral u x g) g else generalWords x g := by
  induction l generalizing x with
  | nil => rfl
  | cons h l ih =>
    rw [List.foldl_cons, ih]
    by_cases first : h = g
    · subst first
      rw [if_pos (List.mem_cons_self ..), generalWords_applyGeneral_twice, ite_self]
    · have stands := generalWords_applyGeneral_of_ne first u x
      rw [generalWords_applyGeneral_congr u stands, stands]
      simp only [List.mem_cons, Ne.symm first, false_or]

/-! ### The whole table -/

/-- Settles O31: each vector of entries takes its updates by index, and the general entries take theirs in turn. -/
theorem pendingUpdatesTakeEffectTogether : Obligations.PendingUpdatesTakeEffectTogether := by
  intro t p
  refine ⟨fun c => ?_, fun curve i => ?_, fun f => ?_, fun n => ?_, fun g => ?_⟩
  · simp only [EffectiveTable.applyAll, Fin.getElem_fin, Vector.getElem_ofFn]
    cases p.channels[c.val] <;> rfl
  · cases curve with
    | modules | coolant | filter =>
      simp only [EffectiveTable.applyAll, EffectiveTable.curve, Fin.getElem_fin, Vector.getElem_ofFn]
      split <;> simp_all [applyPending]
  · simp only [EffectiveTable.applyAll, Fin.getElem_fin, Vector.getElem_ofFn]
    cases p.fine[f.val] <;> rfl
  · simp only [EffectiveTable.applyAll, Fin.getElem_fin, Vector.getElem_ofFn]
    cases p.summary[n.val] <;> rfl
  · have words := generalWords_foldl p.general (List.finRange 13) t.general g
    rw [if_pos (List.mem_finRange g)] at words
    cases pending : p.general[g] <;> simp only [applyGeneral, pending] at words
    · exact Prod.mk.inj words
    · exact Prod.mk.inj words

end Sys2Proof.Machine
end

section
/-! PROOF. Written words and words in effect: each field is read from its bits and clamped, and stands in its bits in effect
(R133 to R136, R145, R193 to R195). -/

namespace Sys2Proof.Machine

/-! ### Fields as numbers -/

/-- Two adjacent fields side by side are one number (R135, the pattern). -/
theorem ofNat_fields_eq_append (a b : Word) :
    BitVec.ofNat 30 (field a 0 16 + field b 0 14 * 2 ^ 16) = b.extractLsb' 0 14 ++ a.extractLsb' 0 16 := by
  apply BitVec.eq_of_toNat_eq
  have low := field_lt a 0 16
  have high := field_lt b 0 14
  rw [BitVec.toNat_append, ← field_eq_extract, ← field_eq_extract, Nat.shiftLeft_eq, Nat.mul_comm (field b 0 14),
    ← Nat.two_pow_add_eq_or_of_lt low, BitVec.toNat_ofNat]
  omega

/-- A 16-bit number packed and read back is itself (R194). -/
theorem toSigned_signed16 {v : Int} (low : -32768 ≤ v) (high : v ≤ 32767) : toSigned (signed16 v % 2 ^ 16) 16 = v := by
  unfold toSigned signed16
  split <;> omega

/-- A number in range is not moved by its clamp. -/
theorem clampInt_of_mem {lo hi v : Int} (low : lo ≤ v) (high : v ≤ hi) : clampInt lo hi v = v := by
  unfold clampInt
  omega

/-! ### Channel entries -/

theorem clampChannel_eq (a b : Word) : clampChannel a b = {
    slot := (a.extractLsb' 0 5).toNat
    offset := (a.extractLsb' 8 5).toNat
    width := min (min (a.extractLsb' 16 5).toNat 16) (32 - (a.extractLsb' 8 5).toNat)
    signed := a.getLsbD 24
    present := a.getLsbD 25 && decide (1 ≤ (a.extractLsb' 0 5).toNat ∧ (a.extractLsb' 0 5).toNat ≤ 30 ∧
      1 ≤ (a.extractLsb' 16 5).toNat)
    required := a.getLsbD 26
    scale := max 1 (b.extractLsb' 0 8).toNat
    shift := (b.extractLsb' 8 4).toNat
    trip := (b.extractLsb' 16 16).toInt } := by
  simp only [clampChannel, field_eq_extract, flag_eq_getLsbD, signedField_eq_extract _ _ _ (by decide : 0 < 16),
    Bool.decide_and, Bool.and_assoc]

theorem channelWordA_toNat (e : ChannelEntry) : (channelWordA e).toNat =
    e.slot % 32 + 2 ^ 8 * (e.offset % 32) + 2 ^ 16 * (e.width % 32) + 2 ^ 24 * e.signed.toNat +
      2 ^ 25 * e.present.toNat + 2 ^ 26 * e.required.toNat := by
  have signed := toNat_lt_two e.signed
  have present := toNat_lt_two e.present
  have required := toNat_lt_two e.required
  refine pack_toNat _ _ ?_ (by omega)
  simp only [packSum_cons, packSum_nil]
  omega

theorem channelWordB_toNat (e : ChannelEntry) : (channelWordB e).toNat =
    e.scale % 256 + 2 ^ 8 * (e.shift % 16) + 2 ^ 16 * (e.trip % 65536).toNat := by
  have trip := signed16_lt e.trip
  refine pack_toNat _ _ ?_ (by omega)
  simp only [packSum_cons, packSum_nil, signed16] at trip ⊢
  omega

/-- A flag read from its bit in a number. -/
theorem flag_of_bit {w : Word} {i : Nat} {b : Bool} (bit : w.toNat / 2 ^ i % 2 = b.toNat) : flag w i = b := by
  unfold flag field
  rw [pow_one, bit]
  cases b <;> rfl

/-- An entry in range is not moved by its words: written again they give it (R145, R195). -/
theorem clampChannel_words (e : ChannelEntry) (h : e.inRange) : clampChannel (channelWordA e) (channelWordB e) = e := by
  obtain ⟨slot, offset, width, fits, scale, scale', shift, trip, trip', present⟩ := h
  have signedBit := toNat_lt_two e.signed
  have presentBit := toNat_lt_two e.present
  have requiredBit := toNat_lt_two e.required
  have wordA := channelWordA_toNat e
  have wordB := channelWordB_toNat e
  have fieldSlot : field (channelWordA e) 0 5 = e.slot := by rw [field, wordA]; omega
  have fieldOffset : field (channelWordA e) 8 5 = e.offset := by rw [field, wordA]; omega
  have fieldWidth : field (channelWordA e) 16 5 = e.width := by rw [field, wordA]; omega
  have flagSigned : flag (channelWordA e) 24 = e.signed := flag_of_bit (by rw [wordA]; omega)
  have flagPresent : flag (channelWordA e) 25 = e.present := flag_of_bit (by rw [wordA]; omega)
  have flagRequired : flag (channelWordA e) 26 = e.required := flag_of_bit (by rw [wordA]; omega)
  have fieldScale : field (channelWordB e) 0 8 = e.scale := by rw [field, wordB]; omega
  have fieldShift : field (channelWordB e) 8 4 = e.shift := by rw [field, wordB]; omega
  have fieldTrip : signedField (channelWordB e) 16 16 = e.trip := by
    rw [← toSigned_signed16 trip trip', signedField, field, wordB, signed16]
    congr 1
    omega
  have cut : min (min e.width 16) (32 - e.offset) = e.width := by omega
  have raised : max 1 e.scale = e.scale := by omega
  have placed : (e.present && decide (1 ≤ e.slot) && decide (e.slot ≤ 30) && decide (1 ≤ e.width)) = e.present := by
    cases he : e.present with
    | false => rfl
    | true =>
      obtain ⟨low, high, wide⟩ := present he
      simp only [low, high, wide, decide_true, Bool.and_self]
  simp only [clampChannel, fieldSlot, fieldOffset, fieldWidth, flagSigned, flagPresent, flagRequired, fieldScale, fieldShift,
    fieldTrip, cut, raised, placed]

/-! ### One-word entries -/

theorem coarseWord_toNat (e : CoarseEntry) :
    (coarseWord e).toNat = e.value % 8192 + 2 ^ 16 * e.block.val + 2 ^ 31 * e.refined.toNat := by
  have refined := toNat_lt_two e.refined
  refine pack_toNat _ _ ?_ (by omega)
  simp only [packSum_cons, packSum_nil]
  omega

theorem fineWord_toNat (v : Nat) : (fineWord v).toNat = v % 8192 := by
  refine pack_toNat _ _ ?_ (by omega)
  simp only [packSum_cons, packSum_nil]
  omega

theorem mapWord_toNat (e : MapEntry) :
    (mapWord e).toNat = e.bit.val + 2 ^ 8 * e.sense.toNat + 2 ^ 15 * e.mapped.toNat := by
  have sense := toNat_lt_two e.sense
  have mapped := toNat_lt_two e.mapped
  refine pack_toNat _ _ ?_ (by omega)
  simp only [packSum_cons, packSum_nil]
  omega

theorem clampCoarse_word (e : CoarseEntry) (h : e.value ≤ 4096) : clampCoarse (coarseWord e) = e := by
  have refinedBit := toNat_lt_two e.refined
  have word := coarseWord_toNat e
  have fieldValue : field (coarseWord e) 0 13 = e.value := by rw [field, word]; omega
  have fieldBlock : field (coarseWord e) 16 3 = e.block.val := by rw [field, word]; omega
  have flagRefined : flag (coarseWord e) 31 = e.refined := flag_of_bit (by rw [word]; omega)
  have block : Fin.ofNat 8 e.block.val = e.block := Fin.ext (Nat.mod_eq_of_lt e.block.isLt)
  simp only [clampCoarse, fieldValue, fieldBlock, flagRefined, Nat.min_eq_left h, block]

theorem clampFine_word (v : Nat) (h : v ≤ 4096) : clampFine (fineWord v) = v := by
  rw [clampFine, field, fineWord_toNat]
  omega

theorem clampMap_word (e : MapEntry) : clampMap (mapWord e) = e := by
  have senseBit := toNat_lt_two e.sense
  have mappedBit := toNat_lt_two e.mapped
  have word := mapWord_toNat e
  have fieldBit : field (mapWord e) 0 5 = e.bit.val := by rw [field, word]; omega
  have flagSense : flag (mapWord e) 8 = e.sense := flag_of_bit (by rw [word]; omega)
  have flagMapped : flag (mapWord e) 15 = e.mapped := flag_of_bit (by rw [word]; omega)
  have bit : Fin.ofNat 32 e.bit.val = e.bit := Fin.ext (Nat.mod_eq_of_lt e.bit.isLt)
  simp only [clampMap, fieldBit, flagSense, flagMapped, bit]

/-- The fields of a one-word entry's written word. -/
theorem clampOneWord_fields (w : Word) :
    (clampCoarse w).refined = w.getLsbD 31 ∧ (clampCoarse w).value = min (w.extractLsb' 0 13).toNat 4096 ∧
    (clampCoarse w).block.val = (w.extractLsb' 16 3).toNat ∧ clampFine w = min (w.extractLsb' 0 13).toNat 4096 ∧
    (clampMap w).mapped = w.getLsbD 15 ∧ (clampMap w).bit.val = (w.extractLsb' 0 5).toNat ∧
    (clampMap w).sense = w.getLsbD 8 := by
  simp only [clampCoarse, clampFine, clampMap, flag_eq_getLsbD, ← field_eq_extract, true_and, and_true]
  exact ⟨Nat.mod_eq_of_lt (field_lt w 16 3), Nat.mod_eq_of_lt (field_lt w 0 5)⟩

/-! ### General entries -/

/-- A word of one field stands for its value, cut to the field. -/
theorem pack_single (v len : Nat) (h : len ≤ 31) : (pack [(v, 0, len)]).toNat = v % 2 ^ len := by
  have cut : v % 2 ^ len < 2 ^ len := Nat.mod_lt _ (Nat.two_pow_pos len)
  have wide : 2 ^ len ≤ 2 ^ 31 := Nat.pow_le_pow_right (by decide) h
  refine pack_toNat _ _ ?_ (by omega)
  simp only [packSum_cons, packSum_nil, pow_zero, mul_one, add_zero]

/-- A word of two fields, one in each half, stands for their values, each cut and in its half. -/
theorem pack_halves (v u len len' : Nat) (h : len ≤ 16) (h' : len' ≤ 16) :
    (pack [(v, 0, len), (u, 16, len')]).toNat = v % 2 ^ len + 2 ^ 16 * (u % 2 ^ len') := by
  have low : v % 2 ^ len < 2 ^ len := Nat.mod_lt _ (Nat.two_pow_pos len)
  have high : u % 2 ^ len' < 2 ^ len' := Nat.mod_lt _ (Nat.two_pow_pos len')
  have wide : 2 ^ len ≤ 2 ^ 16 := Nat.pow_le_pow_right (by decide) h
  have wide' : 2 ^ len' ≤ 2 ^ 16 := Nat.pow_le_pow_right (by decide) h'
  refine pack_toNat _ _ ?_ (by omega)
  simp only [packSum_cons, packSum_nil, pow_zero, mul_one, add_zero, Nat.mul_comm]

/-- The word of FRAME_TIMEOUT and the three automatic restart flags. -/
theorem autoWord_toNat (x : General) : (generalWordA x 8).toNat = x.frameTimeout % 256 + 2 ^ 16 * x.autoThermal.toNat +
    2 ^ 17 * x.autoCooling.toNat + 2 ^ 18 * x.autoInterlock.toNat := by
  have thermal := toNat_lt_two x.autoThermal
  have cooling := toNat_lt_two x.autoCooling
  have interlock := toNat_lt_two x.autoInterlock
  refine pack_toNat _ _ ?_ (by omega)
  simp only [packSum_cons, packSum_nil]
  omega

theorem field_pack_single (v len : Nat) (h : len ≤ 31) : field (pack [(v, 0, len)]) 0 len = v % 2 ^ len := by
  rw [field, pack_single v len h, pow_zero, Nat.div_one, Nat.mod_mod]

theorem field_pack_low (v u len len' : Nat) (h : len ≤ 16) (h' : len' ≤ 16) :
    field (pack [(v, 0, len), (u, 16, len')]) 0 len = v % 2 ^ len := by
  have whole : 2 ^ len ∣ 2 ^ 16 * (u % 2 ^ len') := (pow_dvd_pow 2 h).mul_right _
  rw [field, pack_halves v u len len' h h', pow_zero, Nat.div_one, Nat.add_mod, Nat.mod_eq_zero_of_dvd whole, Nat.mod_mod,
    add_zero, Nat.mod_mod]

theorem field_pack_high (v u len len' : Nat) (h : len ≤ 16) (h' : len' ≤ 16) :
    field (pack [(v, 0, len), (u, 16, len')]) 16 len' = u % 2 ^ len' := by
  have low : v % 2 ^ len < 2 ^ 16 :=
    Nat.lt_of_lt_of_le (Nat.mod_lt _ (Nat.two_pow_pos len)) (Nat.pow_le_pow_right (by decide) h)
  rw [field, pack_halves v u len len' h h', Nat.add_mul_div_left _ _ (by decide), Nat.div_eq_of_lt low, zero_add,
    Nat.mod_mod]

theorem signed16_mod (v : Int) : signed16 v % 65536 = (v % 65536).toNat := by
  unfold signed16
  omega

/-- A clamped base packed, read back and clamped again is itself. -/
theorem clampInt_packed (n : Int) :
    clampInt (-400) 1500 (signedField (pack [(signed16 (clampInt (-400) 1500 n), 0, 16)]) 0 16) =
      clampInt (-400) 1500 n := by
  have low : -400 ≤ clampInt (-400) 1500 n := Int.le_max_left _ _
  have high : clampInt (-400) 1500 n ≤ 1500 := by
    unfold clampInt
    omega
  rw [signedField, field_pack_single _ _ (by decide), toSigned_signed16 (by omega) (by omega), clampInt_of_mem low high]

theorem clampMask_twice (w : Word) : clampMask (clampMask w) = clampMask w := by
  rw [clampMask, clampMask, BitVec.and_assoc, BitVec.and_self]

/-- A pattern packed in its two words and read back is itself. -/
theorem pattern_packed (p : BitVec 30) : BitVec.ofNat 30 (field (pack [(p.toNat, 0, 16)]) 0 16 +
    field (pack [(p.toNat / 2 ^ 16, 0, 14)]) 0 14 * 2 ^ 16) = p := by
  have small := p.isLt
  apply BitVec.eq_of_toNat_eq
  rw [field_pack_single _ _ (by decide), field_pack_single _ _ (by decide), BitVec.toNat_ofNat]
  omega

/-- The fields of the word of FRAME_TIMEOUT and the automatic restart flags. -/
theorem autoWord_fields (x : General) : field (generalWordA x 8) 0 8 = x.frameTimeout % 256 ∧
    flag (generalWordA x 8) 16 = x.autoThermal ∧ flag (generalWordA x 8) 17 = x.autoCooling ∧
    flag (generalWordA x 8) 18 = x.autoInterlock := by
  have thermal := toNat_lt_two x.autoThermal
  have cooling := toNat_lt_two x.autoCooling
  have interlock := toNat_lt_two x.autoInterlock
  have word := autoWord_toNat x
  refine ⟨by rw [field, word]; omega, flag_of_bit ?_, flag_of_bit ?_, flag_of_bit ?_⟩ <;> rw [word] <;> omega

/-- The words of a clamped general entry, written again, give the entry: each field fits its bits, and its clamp moves it no
further (R145, R195). -/
theorem clampGeneral_words (g : Fin 13) (a b : Word) (x : General) :
    clampGeneral g (generalWordA (clampGeneral g a b x) g) (generalWordB (clampGeneral g a b x) g) x =
      clampGeneral g a b x := by
  have a8 := field_lt a 0 8
  have b8 := field_lt b 0 8
  have b8' := field_lt b 16 8
  have b4 := field_lt b 0 4
  match g with
  | 8 =>
    obtain ⟨timeout, thermal, cooling, interlock⟩ := autoWord_fields (clampGeneral 8 a b x)
    generalize generalWordA (clampGeneral 8 a b x) 8 = w at *
    simp (disch := decide) only [clampGeneral, generalWordB, field_pack_single, timeout, thermal, cooling, interlock,
      General.mk.injEq, true_and, and_true]
    omega
  | 9 | 10 => simp only [clampGeneral, generalWordA, generalWordB, clampInt_packed]
  | 11 => simp only [clampGeneral, generalWordA, generalWordB, clampMask_twice]
  | 12 => simp only [clampGeneral, generalWordA, generalWordB, pattern_packed]
  | 0 | 1 | 2 | 3 | 4 | 5 | 6 | 7 =>
    simp (disch := decide) only [clampGeneral, generalWordA, generalWordB, field_pack_single, field_pack_low,
      field_pack_high, clampNat, General.mk.injEq, true_and, and_true]
    omega

/-- Settles O32: each field is read from its bits, stands in them in effect, and is moved by no second clamp. -/
theorem clampingTwiceIsClampingOnce : Obligations.ClampingTwiceIsClampingOnce := by
  refine ⟨clampChannel_eq, clampOneWord_fields, fun a b x => ?_, fun e => ⟨channelWordA_toNat e, channelWordB_toNat e⟩,
    coarseWord_toNat, fineWord_toNat, mapWord_toNat, fun x => ?_,
    fun a b => clampChannel_words _ (clampChannel_inRange a b), fun w => clampCoarse_word _ (clampCoarse_value_le w),
    fun w => clampFine_word _ (clampFine_le w), fun w => clampMap_word _, clampGeneral_words⟩
  · simp only [clampGeneral, ofNat_fields_eq_append]
    simp only [field_eq_extract, flag_eq_getLsbD, signedField_eq_extract _ _ _ (by decide : 0 < 16)]
    simp only [clampNat, clampInt, clampMask, and_self]
  · have pattern : x.pattern.toNat / 65536 % 16384 = x.pattern.toNat / 65536 := by
      have small := x.pattern.isLt
      omega
    simp only [autoWord_toNat]
    simp (disch := decide) only [generalWordA, generalWordB, pack_single, pack_halves, Nat.reducePow, signed16_mod, pattern,
      and_self]

end Sys2Proof.Machine
end

section
/-! PROOF. Reads that change nothing: the served words, and the words that memory answers for (R147, R178, R181, R185). -/

namespace Sys2Proof.Machine

/-! ### Areas -/

/-- An area whose words stand in memory: plain memory, the setpoint area, a telemetry slot or a limit entry. -/
def Area.inMemory : Area → Prop
  | .plain | .setpoint _ | .telemetry _ | .limitA _ | .limitB _ | .limitOne _ => True
  | .effectiveView _ | .request _ | .ownership | .status _ | .headWindow _ => False
  | .captureStart | .captureContinue | .captureStatus => False

theorem areaOf_limit (k : Fin 256) : areaOf (0x100 + k.val) = limitArea k := by
  unfold areaOf
  rw [if_neg (by omega), dif_neg (by omega), dif_neg (by omega), if_neg (by omega), dif_neg (by omega), if_neg (by omega),
    dif_pos (by omega)]
  exact congrArg limitArea (Fin.ext (Nat.add_sub_cancel_left ..))

theorem areaOf_view (k : Fin 256) : areaOf (0x200 + k.val) = .effectiveView k := by
  unfold areaOf
  rw [if_neg (by omega), dif_neg (by omega), dif_neg (by omega), if_neg (by omega), dif_neg (by omega), if_neg (by omega),
    dif_neg (by omega), dif_pos (by omega)]
  exact congrArg Area.effectiveView (Fin.ext (Nat.add_sub_cancel_left ..))

theorem requestOffset_requestAt (k : Fin 8) : requestOffset (requestAt k) = 0x400 + k.val := by revert k; decide

/-- The gaps of the limit table area are plain memory (R131). -/
theorem limitArea_gap (k : Fin 256)
    (gap : (0x3C ≤ k.val ∧ k.val < 0x40) ∨ (0x70 ≤ k.val ∧ k.val < 0x80) ∨ (0xDA ≤ k.val ∧ k.val < 0xE0)) :
    limitArea k = .plain := by
  unfold limitArea
  rcases gap with gap | gap | gap
  · rw [dif_neg (by omega), if_pos (by omega)]
  · rw [dif_neg (by omega), if_neg (by omega), if_neg (by omega), if_neg (by omega), if_neg (by omega), if_pos (by omega)]
  · rw [dif_neg (by omega), if_neg (by omega), if_neg (by omega), if_neg (by omega), if_neg (by omega), if_neg (by omega),
      if_neg (by omega), dif_neg (by omega), if_pos (by omega)]

/-- The limit table area stands in memory. -/
theorem limitArea_inMemory (k : Fin 256) : (limitArea k).inMemory := by
  unfold limitArea
  repeat' split
  all_goals trivial

/-- The offsets whose words stand in memory. -/
theorem areaOf_inMemory (offset : Nat) (h : offset < 0x200 ∨ (0x300 ≤ offset ∧ offset < 0x400) ∨
    (0x408 ≤ offset ∧ offset < 0x420) ∨ (0x421 ≤ offset ∧ offset < 0x430) ∨ (0x444 ≤ offset ∧ offset < 0x480) ∨
    0x483 ≤ offset) : (areaOf offset).inMemory := by
  by_cases setpoint : offset < 0x011
  · obtain ⟨w, area⟩ := (areaOf_setpoint_iff offset).mpr setpoint
    rw [area]
    trivial
  by_cases telemetry : 0x020 ≤ offset ∧ offset < 0x040
  · have area := areaOf_slot ⟨offset - 0x020, by omega⟩
    rw [slotOffset, Nat.add_sub_cancel' telemetry.1] at area
    rw [area]
    trivial
  by_cases limits : 0x100 ≤ offset ∧ offset < 0x200
  · have area := areaOf_limit ⟨offset - 0x100, by omega⟩
    rw [Nat.add_sub_cancel' limits.1] at area
    rw [area]
    exact limitArea_inMemory _
  · rw [areaOf_plain offset (by omega)]
    trivial

/-! ### Reads -/

theorem busRead_region {m : Master} {s : State} (offset : Nat) (x : BitVec 4) (operating : s.operating)
    (inside : offset < 4096) : busRead m (regionAddress s offset) x s =
      regionRead m (areaOf offset) (regionAddress s offset) x s := by
  unfold busRead
  rw [regionOffset_regionAddress s offset inside]
  exact if_neg (Bool.eq_false_iff.mp operating)

/-- Outside reset the region stands at the base held since release (R180). -/
theorem regionNumber_operating {s : State} (operating : s.operating) : regionNumber s = s.bp.regionBase.toNat :=
  if_neg (Bool.eq_false_iff.mp operating)

theorem busRead_outside {m : Master} {s : State} (a : Address) (x : BitVec 4) (operating : s.operating)
    (outside : a.toNat / 4096 ≠ s.bp.regionBase.toNat) : busRead m a x s = s.replied m x (s.mem.readWord a) := by
  rw [← regionNumber_operating operating] at outside
  unfold busRead
  rw [regionOffset_outside s a outside]
  rfl

/-- A read of a served word but the control processor's of S0 is answered and changes nothing. -/
theorem regionRead_served {m : Master} {area : Area} {s : State} {w : Word} (a : Address) (x : BitVec 4)
    (served : servedWord s area = some w) (plainly : ¬ (area = .status 0 ∧ m = .cp)) :
    regionRead m area a x s = s.replied m x w := by
  unfold regionRead
  split
  case h_7 => rw [served]; rfl
  case h_6 => exact absurd ⟨rfl, rfl⟩ plainly
  all_goals exact nomatch served

/-- A read of a word in memory, but the drive link's of a setpoint word, is answered with memory's word. -/
theorem regionRead_inMemory {m : Master} {area : Area} (a : Address) (x : BitVec 4) (s : State) (inMemory : area.inMemory)
    (plainly : m ≠ .dl ∨ ∀ w, area ≠ .setpoint w) : regionRead m area a x s = s.replied m x (s.mem.readWord a) := by
  unfold regionRead
  split
  case h_1 w => exact plainly.elim (absurd rfl) fun no => absurd rfl (no w)
  case h_7 =>
    have unserved : servedWord s area = none := by
      cases area with
      | plain | setpoint | telemetry | limitA | limitB | limitOne => rfl
      | effectiveView | request | ownership | status | headWindow => exact inMemory.elim
      | captureStart | captureContinue | captureStatus => exact inMemory.elim
    rw [unserved]
    rfl
  all_goals exact inMemory.elim

/-! ### The effective view -/

/-- The view shows each entry where the limit table area has it (R147). -/
theorem effectiveView_wordA (t : EffectiveTable) (e : TwoWordEntry) (k : Fin 256) (place : 0x100 + k.val = wordAOffset e) :
    effectiveView t k = effectiveWordA t e := by
  rw [effectiveView, ← areaOf_limit, place, areaOf_wordA]

theorem effectiveView_wordB (t : EffectiveTable) (e : TwoWordEntry) (k : Fin 256) (place : 0x100 + k.val = wordBOffset e) :
    effectiveView t k = effectiveWordB t e := by
  rw [effectiveView, ← areaOf_limit, place, areaOf_wordB]

theorem effectiveView_oneWord (t : EffectiveTable) (e : OneWordEntry) (k : Fin 256)
    (place : 0x100 + k.val = oneWordOffset e) : effectiveView t k = effectiveOneWord t e := by
  rw [effectiveView, ← areaOf_limit, place, areaOf_oneWord]

theorem effectiveView_gap (t : EffectiveTable) (k : Fin 256)
    (gap : (0x3C ≤ k.val ∧ k.val < 0x40) ∨ (0x70 ≤ k.val ∧ k.val < 0x80) ∨ (0xDA ≤ k.val ∧ k.val < 0xE0)) :
    effectiveView t k = 0 := by
  rw [effectiveView, limitArea_gap k gap]

/-! ### Codes -/

theorem tripCode_le (k : TripKind) : tripCode k ≤ 9 := by cases k <;> decide

theorem causeCode_le (c : Option TripKind) : causeCode c ≤ 9 := by
  cases c with
  | none => decide
  | some k => exact tripCode_le k

theorem seqStateCode_le (st : SeqState) : seqStateCode st ≤ 5 := by cases st <;> decide

theorem destinationCode_le (d : Destination) : destinationCode d ≤ 2 := by cases d <;> decide

theorem ownerCode_le (o : Owner) : ownerCode o ≤ 2 := by cases o <;> decide

theorem captureStateCode_le (st : CaptureState) : captureStateCode st ≤ 3 := by cases st <;> decide

theorem captureModeCode_le (mode : CaptureMode) : captureModeCode mode ≤ 1 := by cases mode <;> decide

theorem requestCode_le (r : Request) : requestCode r ≤ 8 := by cases r <;> decide

theorem masterTag_le (m : Master) : masterTag m ≤ 3 := by cases m <;> decide

theorem resultCode_le (r : RequestResult) : resultCode r ≤ 5 := by cases r <;> simp [resultCode]

theorem resultCause_le (r : RequestResult) : resultCause r ≤ 9 := by
  cases r with
  | refusedCause k => exact tripCode_le k
  | accepted | refusedState | refusedMaster | refusedArgument | refusedOwner => exact Nat.zero_le _

/-! ### The status words -/

theorem statusS0_toNat (s : State) : (statusS0 s).toNat = seqStateCode s.sq.state + 2 ^ 3 * destinationCode s.sq.destination +
    2 ^ 5 * s.fj.attention.toNat + 2 ^ 6 * s.bp.expiryFlag.toNat + 2 ^ 8 * (s.fj.records.length % 128) +
    2 ^ 16 * ownerCode s.fj.owner + 2 ^ 20 * captureStateCode s.cap.state := by
  have state := seqStateCode_le s.sq.state
  have destination := destinationCode_le s.sq.destination
  have attention := toNat_lt_two s.fj.attention
  have expiry := toNat_lt_two s.bp.expiryFlag
  have owner := ownerCode_le s.fj.owner
  have capture := captureStateCode_le s.cap.state
  refine pack_toNat _ _ ?_ (by omega)
  simp only [packSum_cons, packSum_nil]
  omega

theorem statusS1_toNat (s : State) : (statusS1 s).toNat = causeCode s.sq.primary + 2 ^ 4 * causeCode s.sq.secondary[0]? +
    2 ^ 8 * causeCode s.sq.secondary[1]? + 2 ^ 12 * causeCode s.sq.secondary[2]? +
    2 ^ 16 * causeCode s.sq.secondary[3]? + 2 ^ 20 * (s.sq.secondary.length % 8) := by
  have primary := causeCode_le s.sq.primary
  have secondary (k : Nat) := causeCode_le s.sq.secondary[k]?
  have first := secondary 0
  have second := secondary 1
  have third := secondary 2
  have fourth := secondary 3
  refine pack_toNat _ _ ?_ (by omega)
  simp only [packSum_cons, packSum_nil, secondaryCode]
  omega

theorem statusS4_none {s : State} (last : s.bp.lastRequest = none) : statusS4 s = 0 := by
  rw [statusS4, last]

theorem statusS4_toNat {s : State} {q : LastRequest} (last : s.bp.lastRequest = some q) : (statusS4 s).toNat =
    requestCode q.request + 2 ^ 4 * masterTag q.master + 2 ^ 8 * resultCode q.result + 2 ^ 12 * resultCause q.result := by
  have request := requestCode_le q.request
  have master := masterTag_le q.master
  have result := resultCode_le q.result
  have cause := resultCause_le q.result
  rw [statusS4, last]
  refine pack_toNat _ _ ?_ (by omega)
  simp only [packSum_cons, packSum_nil]
  omega

theorem statusS5_toNat (s : State) : (statusWord s 5).toNat = s.td.lastSeq.toNat + 2 ^ 8 * (s.td.abandoned % 256) +
    2 ^ 16 * (s.td.discarded % 256) + 2 ^ 24 * (s.td.orphans % 256) := by
  have seq := s.td.lastSeq.isLt
  refine pack_toNat _ _ ?_ (by omega)
  simp only [packSum_cons, packSum_nil]
  omega

theorem statusS7_toNat (s : State) : (statusWord s 7).toNat = s.fj.overflow % 65536 + 2 ^ 16 * (s.am.strikes.length % 16) +
    2 ^ 20 * s.bp.lastMisuse.toNat := by
  have misuse := s.bp.lastMisuse.isLt
  refine pack_toNat _ _ ?_ (by omega)
  simp only [packSum_cons, packSum_nil]
  omega

theorem statusS15_nil {s : State} (strikes : s.am.strikes = []) : statusS15 s = 0 := by
  rw [statusS15, strikes]

theorem statusS15_cons {s : State} {x : Strike} {rest : List Strike} (strikes : s.am.strikes = x :: rest) :
    statusS15 s = x.timestamp := by
  rw [statusS15, strikes]

theorem captureStatusWord_toNat (c : CaptureUnit) : (captureStatusWord c).toNat = captureStateCode c.state +
    2 ^ 2 * captureModeCode c.mode + 2 ^ 3 * (c.recordSize % 32) + 2 ^ 8 * (c.ring.length % 4096) +
    2 ^ 20 * (c.preTrigger % 4096) := by
  have state := captureStateCode_le c.state
  have mode := captureModeCode_le c.mode
  refine pack_toNat _ _ ?_ (by omega)
  simp only [packSum_cons, packSum_nil]
  omega

/-! ### S8 -/

/-- A mask of n flags is below 2 to the n. -/
theorem mask_lt (n : Nat) (f : Fin n → Bool) : ((List.finRange n).map fun k => (f k).toNat * 2 ^ k.val).sum < 2 ^ n := by
  induction n with
  | zero => exact Nat.one_pos
  | succ n ih =>
    have below := ih fun k => f k.castSucc
    have top := Nat.mul_le_mul_right (2 ^ n) (Nat.le_of_lt_succ (toNat_lt_two (f (Fin.last n))))
    simp only [List.finRange_succ_last, List.map_append, List.map_map, Function.comp_def, Fin.val_castSucc, List.map_cons,
      List.map_nil, List.sum_append, List.sum_cons, List.sum_nil, Fin.val_last]
    omega

/-- S8 as its two masks, the failed-channel count and the frame-seen flag. -/
theorem statusS8_toNat (s : State) : (statusS8 s).toNat =
    gatedMask s + 2 ^ 8 * (deratedMask s + 2 ^ 11 * (2 ^ 5 * (failedCount s % 32) + 2 ^ 12 * s.td.frameSeen.toNat)) := by
  have gated := mask_lt 8 fun m => s.mu.admission[m].gated
  have derated := mask_lt 11 fun k => s.td.channels[thermalChannel k].derateOpen
  rw [← gatedMask] at gated
  rw [← deratedMask] at derated
  have seen := toNat_lt_two s.td.frameSeen
  refine pack_toNat _ _ ?_ (by omega)
  simp only [packSum_cons, packSum_nil]
  omega

theorem statusS8_gated (s : State) (i : Fin 8) : (statusS8 s).getLsbD i.val = s.mu.admission[i].gated := by
  rw [BitVec.getLsbD, statusS8_toNat]
  exact testBit_mask 8 (fun m => s.mu.admission[m].gated) i _

theorem statusS8_derated (s : State) (k : Fin 11) :
    (statusS8 s).getLsbD (8 + k.val) = s.td.channels[thermalChannel k].derateOpen := by
  have gated : gatedMask s < 2 ^ 8 := mask_lt 8 fun m => s.mu.admission[m].gated
  rw [BitVec.getLsbD, Nat.add_comm, ← Nat.testBit_div_two_pow, statusS8_toNat, Nat.add_mul_div_left _ _ (by decide),
    Nat.div_eq_of_lt gated, zero_add]
  exact testBit_mask 11 (fun k => s.td.channels[thermalChannel k].derateOpen) k _

theorem statusS8_high (s : State) : (statusS8 s).toNat / 2 ^ 19 =
    2 ^ 5 * (failedCount s % 32) + 2 ^ 12 * s.td.frameSeen.toNat := by
  have gated : gatedMask s < 2 ^ 8 := mask_lt 8 fun m => s.mu.admission[m].gated
  have derated : deratedMask s < 2 ^ 11 := mask_lt 11 fun k => s.td.channels[thermalChannel k].derateOpen
  rw [statusS8_toNat]
  omega

/-- Settles O57: each read is answered by its area, and each served word carries its fields. -/
theorem servedWordsAreReadWithoutEffect : Obligations.ServedWordsAreReadWithoutEffect := by
  intro m x s operating
  refine ⟨fun k => ?_, fun k => ?_, fun n plainly => ?_, ?_, fun offset memory => ?_,
    fun a outside => busRead_outside a x operating outside, fun c => ⟨?_, ?_⟩, fun g => ⟨?_, ?_⟩,
    fun i => ⟨?_, ?_, ?_⟩, fun f => ?_, fun n => ?_, effectiveView_gap s.lt.effective, statusS0_toNat s, statusS1_toNat s,
    ?_⟩
  · rw [busRead_region _ x operating (by omega), areaOf_view]
    exact regionRead_served _ x rfl (fun no => nomatch no.1)
  · rw [busRead_region _ x operating (by omega), ← requestOffset_requestAt, areaOf_request]
    exact regionRead_served _ x rfl (fun no => nomatch no.1)
  · rw [busRead_region _ x operating (by omega), areaOf_status]
    exact regionRead_served _ x rfl (fun no => plainly ⟨Area.status.inj no.1, no.2⟩)
  · rw [busRead_region _ x operating (by decide)]
    exact regionRead_served _ x rfl (fun no => nomatch no.1)
  · rw [busRead_region _ x operating (by omega)]
    refine regionRead_inMemory _ x s (areaOf_inMemory offset (by omega)) ?_
    rcases memory with ⟨-, other⟩ | memory
    · exact .inl other
    · refine .inr fun w area => ?_
      have setpoint := (areaOf_setpoint_iff offset).mp ⟨w, area⟩
      omega
  · exact effectiveView_wordA _ (.channel c) _ (by simp only [wordAOffset])
  · exact effectiveView_wordB _ (.channel c) _ (by simp only [wordBOffset]; omega)
  · exact effectiveView_wordA _ (.general g) _ (by simp only [wordAOffset]; omega)
  · exact effectiveView_wordB _ (.general g) _ (by simp only [wordBOffset]; omega)
  · exact effectiveView_oneWord _ (.coarse .modules i) _ (by simp only [oneWordOffset]; omega)
  · exact effectiveView_oneWord _ (.coarse .coolant i) _ (by simp only [oneWordOffset]; omega)
  · exact effectiveView_oneWord _ (.coarse .filter i) _ (by simp only [oneWordOffset]; omega)
  · exact effectiveView_oneWord _ (.fine f) _ (by simp only [oneWordOffset]; omega)
  · exact effectiveView_oneWord _ (.summary n) _ (by simp only [oneWordOffset]; omega)
  · have halves (v u : Nat) : (pack [(v, 0, 12), (u, 16, 12)]).toNat = v % 4096 + 2 ^ 16 * (u % 4096) :=
      pack_halves v u 12 12 (by decide) (by decide)
    exact ⟨halves _ _, halves _ _, statusS4_none, fun q last => statusS4_toNat last, statusS5_toNat s,
      pack_halves _ _ 16 16 (by decide) (by decide), statusS7_toNat s, statusS8_gated s, statusS8_derated s, statusS8_high s,
      rfl, rfl, halves _ _, halves _ _, halves _ _, halves _ _, statusS15_nil, fun x rest => statusS15_cons,
      captureStatusWord_toNat s.cap, rfl, fun k => ⟨rfl, rfl, rfl, rfl⟩, rfl, rfl, rfl, rfl, rfl, rfl, rfl, rfl, rfl, rfl⟩

end Sys2Proof.Machine
end

section
/-! PROOF. Writes the part does not act on: absorbed, or stored, and counted where they are misuse (R181 to R186, R189). -/

namespace Sys2Proof.Machine

/-- A state whose memory is the old one with the enabled lanes of a word written holds them, and every other byte as before. -/
theorem storesLanes_of_writeWord {s t : State} (a : Address) (lanes : Lanes) (w : Word) (wf : s.mem.wf = true)
    (ht : t.mem = s.mem.writeWord a lanes w) : StoresLanes s t a lanes w := by
  unfold StoresLanes
  rw [ht]
  exact ⟨Memory.readByte_writeWord_lane _ _ _ _ wf, Memory.readByte_writeWord_of_ne _ _ _ _ wf⟩

theorem exec_absorbedWrite_region {m : Master} {s : State} (offset : Nat) (lanes : Lanes) (w : Word)
    (operating : s.operating) (inside : offset < 4096) : exec (.absorbedWrite m (regionAddress s offset) lanes w) s =
      .next (regionWrite m offset (regionAddress s offset) lanes w s) := by
  refine congrArg Host.Outcome.next ?_
  unfold busWrite
  rw [if_neg (Bool.eq_false_iff.mp operating), regionOffset_regionAddress s offset inside]

theorem exec_absorbedWrite_outside {m : Master} {s : State} (a : Address) (lanes : Lanes) (w : Word)
    (operating : s.operating) (outside : a.toNat / 4096 ≠ s.bp.regionBase.toNat) :
    exec (.absorbedWrite m a lanes w) s = .next (s.forwardWrite a lanes w) := by
  rw [← regionNumber_operating operating] at outside
  refine congrArg Host.Outcome.next ?_
  unfold busWrite
  rw [if_neg (Bool.eq_false_iff.mp operating), regionOffset_outside s a outside]

/-- A write to a read-only served word is absorbed, and is one misuse (R186). -/
theorem regionWrite_readOnly {m : Master} {s : State} (offset : Nat) (a : Address) (lanes : Lanes) (w : Word)
    (h : (0x200 ≤ offset ∧ offset < 0x300) ∨ (0x430 ≤ offset ∧ offset < 0x444) ∨ (0x480 ≤ offset ∧ offset < 0x483)) :
    regionWrite m offset a lanes w s = s.misused offset := by
  unfold regionWrite
  rcases areaOf_readOnly offset h with ⟨_, area⟩ | ⟨_, area⟩ | ⟨_, area⟩ | area | area | area <;> rw [area] <;> rfl

/-- The setpoint area, plain memory and the gaps of the limit table area take writes as memory does (R181, R184). -/
theorem regionWrite_forwarded {m : Master} {s : State} (offset : Nat) (a : Address) (lanes : Lanes) (w : Word)
    (h : offset < 0x020 ∨ (0x040 ≤ offset ∧ offset < 0x100) ∨ (0x13C ≤ offset ∧ offset < 0x140) ∨
      (0x170 ≤ offset ∧ offset < 0x180) ∨ (0x1DA ≤ offset ∧ offset < 0x1E0) ∨ (0x300 ≤ offset ∧ offset < 0x400) ∨
      (0x408 ≤ offset ∧ offset < 0x420) ∨ (0x421 ≤ offset ∧ offset < 0x430) ∨
      (0x444 ≤ offset ∧ offset < 0x480) ∨ 0x483 ≤ offset) :
    regionWrite m offset a lanes w s = s.forwardWrite a lanes w := by
  unfold regionWrite
  by_cases setpoint : offset < 0x011
  · obtain ⟨_, area⟩ := (areaOf_setpoint_iff offset).mpr setpoint
    rw [area]
  by_cases gap : 0x100 ≤ offset ∧ offset < 0x200
  · have area := areaOf_limit ⟨offset - 0x100, by omega⟩
    rw [Nat.add_sub_cancel' gap.1, limitArea_gap _ (by dsimp only; omega)] at area
    rw [area]
  · rw [areaOf_plain offset (by omega)]

/-- A telemetry write that is not the scanner's with all lanes is stored and counted (R183). -/
theorem telemetryWrite_uninterpreted {m : Master} {s : State} {lanes : Lanes} (slot : Fin 32) (w : Word)
    (operating : s.operating) (uninterpreted : m ≠ .ts ∨ lanes ≠ 0xF) : telemetryWrite m lanes slot w s =
      (s.forwardWrite (regionAddress s (slotOffset slot)) lanes w).misused (slotOffset slot) := by
  have ignored : ¬ (m == .ts && fullLanes lanes) = true := by
    simpa only [fullLanes, Bool.and_eq_true, beq_iff_eq, not_and_or] using uninterpreted
  unfold telemetryWrite
  dsimp only
  rw [if_neg (Bool.eq_false_iff.mp operating), if_neg ignored]
  rfl

/-- A limit write that is not a commanding master's with all lanes is stored and counted (R131, R183). -/
theorem limitWrite_uninterpreted {m : Master} {s : State} {lanes : Lanes} (offset : Nat) (w : Word) (take : State → State)
    (operating : s.operating) (uninterpreted : ¬ m.commands ∨ lanes ≠ 0xF) : limitWrite m lanes offset w take s =
      (s.forwardWrite (regionAddress s offset) lanes w).misused offset := by
  have ignored : ¬ limitInterpreted m lanes = true := by
    rcases uninterpreted with other | partly
    · cases m with
      | cp | sp => exact absurd trivial other
      | ts | dl => exact Bool.false_ne_true
    · exact fun taken => partly (eq_of_beq (Bool.and_eq_true_iff.mp taken).2)
  unfold limitWrite
  dsimp only
  rw [if_neg (Bool.eq_false_iff.mp operating), if_neg ignored]
  rfl

/-- An uninterpreted write to a limit entry's word is stored and counted. -/
theorem regionWrite_limit {m : Master} {s : State} {lanes : Lanes} (offset : Nat) (w : Word)
    (entry : (∃ e, offset = wordAOffset e ∨ offset = wordBOffset e) ∨ ∃ e, offset = oneWordOffset e)
    (operating : s.operating) (uninterpreted : ¬ m.commands ∨ lanes ≠ 0xF) :
    regionWrite m offset (regionAddress s offset) lanes w s =
      (s.forwardWrite (regionAddress s offset) lanes w).misused offset := by
  unfold regionWrite
  rcases entry with ⟨e, rfl | rfl⟩ | ⟨e, rfl⟩
  · rw [areaOf_wordA]
    exact limitWrite_uninterpreted _ w _ operating uninterpreted
  · rw [areaOf_wordB]
    exact limitWrite_uninterpreted _ w _ operating uninterpreted
  · rw [areaOf_oneWord]
    exact limitWrite_uninterpreted _ w _ operating uninterpreted

/-- Settles O58: each write is treated by its area, and by who writes it with which lanes. -/
theorem uninterpretedWritesAreAbsorbedOrForwarded : Obligations.UninterpretedWritesAreAbsorbedOrForwarded := by
  intro m lanes w offset s operating wf inside
  have region := exec_absorbedWrite_region (m := m) offset lanes w operating inside
  refine ⟨fun readOnly => ?_, fun forwarded => ?_, fun a outside => ?_, fun low high uninterpreted => ?_,
    fun entry uninterpreted => ?_⟩
  · rw [region, regionWrite_readOnly offset _ lanes w readOnly]
  · rw [regionWrite_forwarded offset _ lanes w forwarded] at region
    exact ⟨_, region, rfl, storesLanes_of_writeWord _ lanes w wf rfl⟩
  · exact ⟨_, exec_absorbedWrite_outside a lanes w operating outside, rfl, storesLanes_of_writeWord a lanes w wf rfl⟩
  · have area := areaOf_slot ⟨offset - 0x020, by omega⟩
    have slot : slotOffset ⟨offset - 0x020, by omega⟩ = offset := Nat.add_sub_cancel' low
    have written := telemetryWrite_uninterpreted ⟨offset - 0x020, by omega⟩ w operating uninterpreted
    rw [slot] at area written
    rw [regionWrite, area] at region
    exact ⟨_, region.trans (congrArg _ written), rfl, storesLanes_of_writeWord _ lanes w wf rfl⟩
  · rw [regionWrite_limit offset w entry operating uninterpreted] at region
    exact ⟨_, region, rfl, storesLanes_of_writeWord _ lanes w wf rfl⟩

end Sys2Proof.Machine
end

section
/-! PROOF. Every command keeps the journal's records in order and every held mark on a copy of the head. A command reaches the
journal by its own operations alone: additions, closes and coalescing, the reads of its window, and what clears it. -/

namespace Sys2Proof.Machine

/-! ### The journal's operations -/

/-- A change that leaves the journal keeps it sound. -/
theorem JournalSound.of_kept {s t : State} (h : JournalSound s.fj) (fj : t.fj = s.fj := by simp) : JournalSound t.fj :=
  fj ▸ h

/-- No record of a sound journal is of kind NONE (R152). -/
theorem JournalSound.kinds {j : FaultJournal} (h : JournalSound j) : ∀ r ∈ j.records, r.kind ≠ .none := by
  obtain ⟨-, -, kinds, -⟩ := h
  exact kinds

theorem setRef_journalSound {j : FaultJournal} (h : JournalSound j) (kind : RecordKind) (source : Nat) (x : Option OpenRef) :
    JournalSound (j.setRef kind source x) := by
  obtain ⟨records, nextSeq, -, -, latches, -⟩ := setRef_keeps j kind source x
  unfold JournalSound FaultJournal.additionsSince
  rw [records, nextSeq, latches]
  exact h

theorem clear_journalSound (j : FaultJournal) : JournalSound j.clear := by
  refine ⟨Nat.zero_le _, List.Pairwise.nil, fun _ none => absurd none List.not_mem_nil, fun m l latched held => ?_⟩
  simp only [FaultJournal.clear, Fin.getElem_fin, Vector.getElem_ofFn, Option.mem_def, Option.map_eq_some_iff] at latched
  obtain ⟨_, _, rfl⟩ := latched
  exact absurd held Bool.false_ne_true

theorem readOwnership_journalSound {j : FaultJournal} (h : JournalSound j) (m : Master) :
    JournalSound (j.readOwnership m).2 := by
  unfold FaultJournal.readOwnership
  split
  · next o _ _ => exact setLatch_sound { j with owner := o } h m none fun _ empty => absurd empty (Option.not_mem_none _)
  · exact h

/-- The latch a window read answers from holds a copy of the head wherever its mark is set. -/
theorem windowLatch_held {j : FaultJournal} (h : JournalSound j) (m : Master) (w : Fin 4)
    (held : (j.windowLatch m w).held = true) : j.records.head?.map Record.seq = some (j.windowLatch m w).copy.seq := by
  obtain ⟨-, -, -, marks⟩ := h
  unfold FaultJournal.windowLatch at held ⊢
  cases latched : j.readLatches[masterIndex m] with
  | none =>
    rw [latched] at held
    exact latchHead_held j held
  | some l =>
    simp only [latched] at held ⊢
    split at held <;> split
    · exact latchHead_held j held
    · contradiction
    · contradiction
    · exact marks (masterIndex m) l latched held

theorem readWindow_journalSound {j : FaultJournal} (h : JournalSound j) (m : Master) (w : Fin 4) :
    JournalSound (j.readWindow m w).2 := by
  have latched : JournalSound (j.setLatch m (some (j.windowLatch m w))) := by
    refine setLatch_sound j h m _ fun l hl held => ?_
    obtain rfl := Option.some.inj hl
    exact windowLatch_held h m w held
  unfold FaultJournal.readWindow
  dsimp only
  split
  · exact remove_sound _ latched _
  · exact latched

/-! ### Records -/

theorem addRecord_journalSound {s : State} (h : JournalSound s.fj) {r : Record} (kind : r.kind ≠ .none) :
    JournalSound (addRecord r s).fj := add_sound s.fj h _ r kind

/-- A stream record is added, or joins the newest record in its place. -/
theorem streamRecord_journalSound {s : State} (h : JournalSound s.fj) {r : Record} (kind : r.kind ≠ .none) :
    JournalSound (streamRecord r s).fj := by
  unfold streamRecord
  cases newest : s.fj.records.getLast? with
  | none => exact addRecord_journalSound h kind
  | some x =>
    dsimp only
    split
    · next alike =>
      obtain ⟨front, records⟩ := List.getLast?_eq_some_iff.mp newest
      refine records_sound s.fj h _ (by simp [records, coalesced]) fun y hy => ?_
      rw [records, List.dropLast_concat, List.mem_append, List.mem_singleton] at hy
      rcases hy with hy | rfl
      · exact h.kinds y (by simp [records, hy])
      · exact fun none => kind (alike.1.symm.trans none)
    · exact addRecord_journalSound h kind

/-- A close marks its record in its place, or is added. -/
theorem closeRecord_journalSound {s : State} (h : JournalSound s.fj) {kind : RecordKind} (named : kind ≠ .none)
    (source : Nat) (value : Int) : JournalSound (closeRecord kind source value s).fj := by
  unfold closeRecord
  dsimp only
  cases s.fj.openRef kind source with
  | none => exact addRecord_journalSound h named
  | some ref =>
    have emptied := setRef_journalSound h kind source none
    dsimp only
    split
    · refine records_sound _ emptied _ ?_ fun y hy => ?_
      · rw [List.map_map]
        refine List.map_congr_left fun x _ => ?_
        simp only [Function.comp_apply]
        split <;> rfl
      · obtain ⟨x, hx, rfl⟩ := List.mem_map.mp hy
        have kept := emptied.kinds x hx
        split <;> exact kept
    · exact addRecord_journalSound (s := s.setFj _) emptied named

/-- Operations that each keep the journal sound keep it so one after another. -/
theorem foldl_journalSound {α : Type} {f : State → α → State}
    (step : ∀ u a, JournalSound u.fj → JournalSound (f u a).fj) (l : List α) {s : State} (h : JournalSound s.fj) :
    JournalSound (l.foldl f s).fj :=
  List.foldlRecOn l f h fun u hu a _ => step u a hu

/-! ### The sequencer and the arc path -/

theorem tripDemands_journalSound {s : State} (h : JournalSound s.fj) (ks : List TripKind) :
    JournalSound (tripDemands ks s).fj := by
  have entered : JournalSound (ks.foldl enterDemand s).fj := h.of_kept
  unfold tripDemands
  cases ks with
  | nil => exact h
  | cons k ks =>
    dsimp only
    split
    · exact addRecord_journalSound entered (by nofun)
    · exact entered

theorem performRestart_journalSound {s : State} (h : JournalSound s.fj) (automatic : Bool) (tag : Nat) :
    JournalSound (performRestart automatic tag s).fj := by
  have closed : JournalSound (closeFoldback (clearCauses s)).fj := by
    unfold closeFoldback
    split
    · exact closeRecord_journalSound (s := clearCauses s) h (by nofun) _ _
    · exact h
  have prepared : JournalSound (prepareRestart automatic s).fj :=
    foldl_journalSound (fun u _ hu => addRecord_journalSound hu (by nofun)) _ closed
  exact addRecord_journalSound prepared (by nofun)

theorem autoRestart_journalSound {s : State} (h : JournalSound s.fj) : JournalSound (autoRestart s).fj := by
  rcases autoRestart_cases s with kept | ⟨-, restarted⟩
  · rw [kept]; exact h
  · rw [restarted]; exact performRestart_journalSound h true 0

theorem lossDemand_journalSound {s : State} (h : JournalSound s.fj) : JournalSound (lossDemand s).fj := by
  unfold lossDemand
  cases s.sq.state with
  | settle | run | mute => exact tripDemands_journalSound h _
  | off | discharge | tripped => exact h

theorem strike_journalSound {s : State} (h : JournalSound s.fj) (i : Fin 3) : JournalSound (strike i s).fj := by
  rw [strike_eq]
  have recorded : JournalSound (struck i s).fj := add_sound s.fj h _ _ (by nofun)
  split
  · exact tripDemands_journalSound recorded _
  · exact recorded.of_kept

theorem arcEvent_journalSound {s : State} (h : JournalSound s.fj) (i : Fin 3) : JournalSound (arcEvent i s).fj := by
  unfold arcEvent
  cases s.sq.state with
  | settle | run | mute => exact strike_journalSound h i
  | off | discharge | tripped => exact addRecord_journalSound h (by nofun)

/-! ### The limit table -/

theorem derateClose_journalSound {s : State} (h : JournalSound s.fj) (k : Fin 11) : JournalSound (derateClose s k).fj :=
  closeRecord_journalSound h (by nofun) _ _

theorem takeEffectNow_journalSound {s : State} (h : JournalSound s.fj) (t : EffectiveTable) :
    JournalSound (takeEffectNow t s).fj := by
  unfold takeEffectNow
  dsimp only
  exact foldl_journalSound (fun _ k hu => derateClose_journalSound hu k) _ h.of_kept

theorem takePendingNow_journalSound {s : State} (h : JournalSound s.fj) : JournalSound (takePendingNow s).fj :=
  takeEffectNow_journalSound (s := s.setLt { s.lt with pendingSet := PendingUpdates.empty }) h _

theorem handOver_journalSound {s : State} (h : JournalSound s.fj) (x : Update) : JournalSound (handOver x s).fj := by
  unfold handOver
  split
  · exact takeEffectNow_journalSound h _
  · exact h

theorem formWordB_journalSound {s : State} (h : JournalSound s.fj) (m : Master) (e : TwoWordEntry) (w : Word) :
    JournalSound (formWordB m e w s).fj := by
  unfold formWordB
  repeat' split
  · exact handOver_journalSound (s := s.setBp (s.bp.setStaging m none)) h _
  all_goals exact handOver_journalSound h _

/-! ### Telemetry and a completion -/

theorem takeHeader_journalSound {s : State} (h : JournalSound s.fj) (w : Word) : JournalSound (takeHeader w s).fj := by
  have checked : JournalSound (sequenceCheck (lowByte w) s).fj := by
    unfold sequenceCheck
    split
    · exact streamRecord_journalSound h (by nofun)
    · exact h
  exact checked

theorem placeSnapshot_journalSound {s : State} (h : JournalSound s.fj) (n : Snapshot) :
    JournalSound (placeSnapshot n s).fj := by
  have checked : JournalSound (overrunCheck s).fj := by
    unfold overrunCheck
    split
    · exact streamRecord_journalSound h (by nofun)
    · exact h
  unfold placeSnapshot
  split
  · exact checked
  · exact h.of_kept

theorem takeSlot_journalSound {s : State} (h : JournalSound s.fj) (slot : Fin 32) (w : Word) :
    JournalSound (takeSlot slot w s).fj := by
  unfold takeSlot takeEnd
  repeat' split
  · exact h.of_kept
  · exact takeHeader_journalSound h w
  · exact placeSnapshot_journalSound (s := s.setTd (s.td.closeFrame w s.msCounter)) h _
  · exact h

theorem telemetryWrite_journalSound {s : State} (h : JournalSound s.fj) (m : Master) (lanes : Lanes) (slot : Fin 32)
    (w : Word) : JournalSound (telemetryWrite m lanes slot w s).fj := by
  unfold telemetryWrite
  dsimp only
  repeat' split
  · exact h
  · exact takeSlot_journalSound (s := s.forwardWrite _ _ _) h slot w
  · exact h

theorem journalDerate_journalSound {s : State} (h : JournalSound s.fj) (ev : Evaluation)
    (before : Vector ChannelRecord 30) (k : Fin 11) : JournalSound (journalDerate ev before s k).fj := by
  unfold journalDerate
  dsimp only
  repeat' split
  · exact h
  · exact addRecord_journalSound h (by nofun)
  · exact closeRecord_journalSound h (by nofun) _ _
  · exact h

theorem journalFoldback_journalSound {s : State} (h : JournalSound s.fj) (before : Bool) (v : Nat) :
    JournalSound (journalFoldback before v s).fj := by
  unfold journalFoldback
  repeat' split
  · exact h
  · exact addRecord_journalSound h (by nofun)
  · exact closeRecord_journalSound h (by nofun) _ _
  · exact h

theorem journalChannel_journalSound {s : State} (h : JournalSound s.fj) (x : ChannelEvent) :
    JournalSound (journalChannel s x).fj := by
  refine addRecord_journalSound h ?_
  cases restored : x.restored <;> simp [newRecord]

/-- The records of a completion, layer by layer. -/
theorem journalCompletion_journalSound {s : State} (h : JournalSound s.fj) (ev : Evaluation) :
    JournalSound (journalCompletion ev s).fj := by
  have adopted : JournalSound (adoptResults ev s).fj := h.of_kept
  have channels := foldl_journalSound (fun _ x hu => journalChannel_journalSound hu x) ev.channelEvents adopted
  have derates := foldl_journalSound (fun _ k hu => journalDerate_journalSound hu ev s.td.channels k)
    (List.finRange 11) channels
  exact foldl_journalSound (fun _ _ hu => addRecord_journalSound hu (by nofun)) _
    (journalFoldback_journalSound derates s.mu.foldbackOpen (adoptResults ev s).mu.v)

theorem completeEvaluation_journalSound {s : State} (h : JournalSound s.fj) (ev : Evaluation) :
    JournalSound (completeEvaluation ev s).fj := by
  obtain ⟨-, fj, -⟩ := completeEvaluation_settled s ev
  rw [fj]
  exact autoRestart_journalSound (tripDemands_journalSound (journalCompletion_journalSound h ev) _)

/-! ### Writes -/

theorem limitWrite_journalSound {s : State} (h : JournalSound s.fj) (m : Master) (lanes : Lanes) (offset : Nat) (w : Word)
    {take : State → State} (taken : ∀ u, JournalSound u.fj → JournalSound (take u).fj) :
    JournalSound (limitWrite m lanes offset w take s).fj := by
  unfold limitWrite
  dsimp only
  repeat' split
  · exact h
  · exact taken (s.forwardWrite _ _ _) h
  · exact h

theorem limitWriteA_journalSound {s : State} (h : JournalSound s.fj) (m : Master) (lanes : Lanes) (e : TwoWordEntry)
    (w : Word) : JournalSound (limitWriteA m lanes e w s).fj :=
  limitWrite_journalSound h _ _ _ _ fun _ hu => hu.of_kept

theorem limitWriteB_journalSound {s : State} (h : JournalSound s.fj) (m : Master) (lanes : Lanes) (e : TwoWordEntry)
    (w : Word) : JournalSound (limitWriteB m lanes e w s).fj :=
  limitWrite_journalSound h _ _ _ _ fun _ hu => formWordB_journalSound hu m e w

theorem limitWriteOne_journalSound {s : State} (h : JournalSound s.fj) (m : Master) (lanes : Lanes) (e : OneWordEntry)
    (w : Word) : JournalSound (limitWriteOne m lanes e w s).fj :=
  limitWrite_journalSound h _ _ _ _ fun _ hu => handOver_journalSound hu _

theorem judgeOf_journalSound {s : State} (h : JournalSound s.fj) (r : Request) (m : Master) (w : Word) :
    JournalSound (judgeOf r m w s).1.fj := by
  cases r with
  | restart =>
    simp only [judgeOf, judgeRestart]
    cases s.sq.state with
    | off | tripped =>
      cases restartCheck s with
      | some _ => exact h
      | none => exact performRestart_journalSound h _ _
    | settle | run | mute | discharge => exact h
  | stop =>
    simp only [judgeOf, judgeStop]
    cases s.sq.state with
    | settle | run | mute => exact addRecord_journalSound h (by nofun)
    | off | discharge | tripped => exact h
  | readmit =>
    simp only [judgeOf, judgeReadmit]
    repeat' split
    · exact h
    · exact h
    · exact h
    · exact addRecord_journalSound (s := s.setMu _) h (by nofun)
    · exact h
  | strikeClear =>
    simp only [judgeOf, judgeStrikeClear]
    split <;> exact h
  | journalClear =>
    simp only [judgeOf, judgeJournalClear]
    split
    · exact clear_journalSound s.fj
    · exact h
  | ownershipClear =>
    simp only [judgeOf, judgeOwnershipClear]
    repeat' split
    all_goals exact h
  | captureArm => exact h
  | captureStop =>
    simp only [judgeOf, judgeCaptureStop]
    split <;> exact h

theorem takeRequest_journalSound {s : State} (h : JournalSound s.fj) (r : Request) (m : Master) (lanes : Lanes) (w : Word) :
    JournalSound (takeRequest r m lanes w (judgeOf r m w) s).fj := by
  unfold takeRequest
  repeat' split
  · exact h
  · exact judgeOf_journalSound h r _ w
  · exact judgeOf_journalSound h r _ w
  all_goals exact h

theorem ownershipWrite_journalSound {s : State} (h : JournalSound s.fj) (m : Master) (lanes : Lanes) (w : Word) :
    JournalSound (ownershipWrite m lanes w s).fj := by
  unfold ownershipWrite
  repeat' split
  all_goals exact h

theorem windowRead_journalSound {s : State} (h : JournalSound s.fj) (m : Master) (w : Fin 4) (x : BitVec 4) :
    JournalSound (windowRead m w x s).fj := by
  unfold windowRead
  split
  · exact h
  · exact readWindow_journalSound h m w

theorem regionWrite_journalSound {s : State} (h : JournalSound s.fj) (m : Master) (offset : Nat) (a : Address)
    (lanes : Lanes) (w : Word) : JournalSound (regionWrite m offset a lanes w s).fj := by
  unfold regionWrite
  cases areaOf offset with
  | telemetry slot => exact telemetryWrite_journalSound h m lanes slot w
  | limitA e => exact limitWriteA_journalSound h m lanes e w
  | limitB e => exact limitWriteB_journalSound h m lanes e w
  | limitOne e => exact limitWriteOne_journalSound h m lanes e w
  | request r => cases r <;> exact takeRequest_journalSound h _ m lanes w
  | ownership => exact ownershipWrite_journalSound h m lanes w
  | plain | setpoint _ | effectiveView _ | status _ | headWindow _ | captureStart | captureContinue | captureStatus =>
    exact h

theorem busWrite_journalSound {s : State} (h : JournalSound s.fj) (m : Master) (a : Address) (lanes : Lanes) (w : Word) :
    JournalSound (busWrite m a lanes w s).fj := by
  unfold busWrite
  repeat' split
  · exact h
  · exact h
  · exact regionWrite_journalSound h m _ a lanes w

/-! ### Every command -/

theorem exec_journalSound (c : Instr) {s t : State} (h : JournalSound s.fj) (hexec : exec c s = .next t) :
    JournalSound t.fj := by
  cases c with
  | frameHeaderWrite w | dataSlotWrite slot w | frameEnd w =>
    cases hexec; exact telemetryWrite_journalSound h _ _ _ _
  | limitWordAWrite m e w => cases hexec; exact limitWriteA_journalSound h _ _ _ _
  | limitWordBWrite m e w => cases hexec; exact limitWriteB_journalSound h _ _ _ _
  | limitOneWordWrite m e w => cases hexec; exact limitWriteOne_journalSound h _ _ _ _
  | restart m lanes w => cases hexec; exact takeRequest_journalSound h .restart m lanes w
  | stop m lanes w => cases hexec; exact takeRequest_journalSound h .stop m lanes w
  | readmit m lanes w => cases hexec; exact takeRequest_journalSound h .readmit m lanes w
  | strikeClear m lanes w => cases hexec; exact takeRequest_journalSound h .strikeClear m lanes w
  | journalClear m lanes w => cases hexec; exact takeRequest_journalSound h .journalClear m lanes w
  | ownershipClear m lanes w => cases hexec; exact takeRequest_journalSound h .ownershipClear m lanes w
  | captureArm m lanes w => cases hexec; exact takeRequest_journalSound h .captureArm m lanes w
  | captureStop m lanes w => cases hexec; exact takeRequest_journalSound h .captureStop m lanes w
  | absorbedWrite m a lanes w => cases hexec; exact busWrite_journalSound h _ _ _ _
  | ownershipWordWrite m lanes w => cases hexec; exact ownershipWrite_journalSound h _ _ _
  | headWindowWord0Read m x | headWindowWordRead m w x => cases hexec; exact windowRead_journalSound h _ _ _
  | dlExciterDriveRead x | dlTrimRead m x | dlGateRead m x => cases hexec; exact h.of_kept
  | ownershipWordRead m x =>
    simp only [exec, execOwnershipWordRead] at hexec
    split at hexec <;> cases hexec
    · exact h
    · exact readOwnership_journalSound h m
  | cpS0Read x =>
    simp only [exec, execCpS0Read] at hexec
    split at hexec <;> cases hexec <;> exact h
  | captureStartAliasRead m x =>
    simp only [exec, execCaptureStartAliasRead] at hexec
    split at hexec <;> cases hexec <;> exact h
  | captureContinueAliasRead m x =>
    simp only [exec, execCaptureContinueAliasRead] at hexec
    split at hexec <;> cases hexec <;> exact h
  | frameTimeoutExpiry =>
    simp only [exec, execFrameTimeoutExpiry] at hexec
    split at hexec <;> cases hexec
    · exact takePendingNow_journalSound
        (lossDemand_journalSound (s := s.setTd { s.td with frameTimer := none, telemetryLost := true }) h)
    · exact h
  | evaluationCompletion =>
    simp only [exec, execEvaluationCompletion] at hexec
    split at hexec
    · cases hexec; exact h
    · exact Host.Outcome.next.inj hexec ▸ completeEvaluation_journalSound h _
  | holdOffExpiry =>
    simp only [exec, execHoldOffExpiry] at hexec
    split at hexec
    · cases hexec; exact h
    · exact Host.Outcome.next.inj hexec ▸ h
  | arcLineAssert i =>
    simp only [exec, execArcLineAssert] at hexec
    split at hexec <;> cases hexec <;> exact h
  | arcLineDeassert i =>
    simp only [exec, execArcLineDeassert] at hexec
    split at hexec <;> cases hexec <;> exact h
  | arcQualifyExpiry i =>
    simp only [exec, execArcQualifyExpiry] at hexec
    split at hexec <;> cases hexec
    · exact arcEvent_journalSound (s := arcBegun i s) h i
    · exact h
  | arcReleaseExpiry i =>
    simp only [exec, execArcReleaseExpiry] at hexec
    split at hexec
    · split at hexec <;> cases hexec
      · exact h
      · exact h.of_kept
    · cases hexec; exact h
  | stuckTimerExpiry i =>
    simp only [exec, execStuckTimerExpiry] at hexec
    split at hexec <;> cases hexec
    · exact tripDemands_journalSound (s := inputStuck i s) h _
    · exact h
  | strikeEntryAgeing =>
    simp only [exec, execStrikeEntryAgeing] at hexec
    split at hexec
    · cases hexec; exact h
    · split at hexec <;> cases hexec <;> exact h
  | interlockOpen =>
    simp only [exec, execInterlockOpen] at hexec
    split at hexec
    · cases hexec; exact h
    · split at hexec <;> cases hexec
      · exact h
      · exact tripDemands_journalSound (s := interlockMoved true s) h _
  | interlockClose =>
    simp only [exec, execInterlockClose] at hexec
    split at hexec
    · split at hexec <;> cases hexec
      · exact h
      · exact autoRestart_journalSound (s := interlockMoved false s) h
    · cases hexec; exact h
  | settleExpiry =>
    simp only [exec, execSettleExpiry] at hexec
    repeat' split at hexec
    all_goals cases hexec; exact h
  | quenchExpiry =>
    simp only [exec, execQuenchExpiry] at hexec
    repeat' split at hexec
    all_goals cases hexec; exact h
  | dischargeExpiry =>
    simp only [exec, execDischargeExpiry] at hexec
    split at hexec <;> cases hexec <;> exact h
  | resetAssert straps => cases hexec; exact journalSound_reset
  | resetRelease straps =>
    simp only [exec, execResetRelease] at hexec
    split at hexec <;> cases hexec <;> exact h
  | millisecondCounterTick =>
    simp only [exec, execMillisecondCounterTick] at hexec
    split at hexec <;> cases hexec <;> exact h

/-- Settles O7: a step is a command, each of which keeps the journal sound, or idles. -/
theorem stepsKeepTheJournalInOrder : Obligations.StepsKeepTheJournalInOrder := by
  intro s t h hstep
  rcases step_cases hstep with rfl | ⟨c, rest, hexec⟩
  · exact h
  · exact exec_journalSound c (s := { s with pending := rest }) h hexec

end Sys2Proof.Machine
end

section
/-! PROOF. What an addition does to the journal and the capture, how stream records coalesce and conditions close, and the
reads and writes of the journal's words and of S0 (R153 to R165). -/

namespace Sys2Proof.Machine

/-! ### Additions -/

theorem unmark_getElem (j : FaultJournal) (q : BitVec 16) (m : Fin 4) :
    (j.unmark q)[m] = (j.readLatches[m]).map fun l => { l with held := l.held && l.copy.seq != q } := by
  simp only [FaultJournal.unmark, Fin.getElem_fin, Vector.getElem_ofFn]

/-- An oldest record that carries the next number is given up (R153). -/
theorem retire_of_eq (j : FaultJournal) (x : Record) (rest : List Record) (records : j.records = x :: rest)
    (recurs : x.seq = j.nextSeq) : j.retire = j.giveUp x rest := by
  unfold FaultJournal.retire
  split
  · next empty => exact absurd (records.symm.trans empty) (List.cons_ne_nil _ _)
  · next y others oldest =>
    obtain ⟨rfl, rfl⟩ := List.cons.inj (oldest.symm.trans records)
    exact if_pos recurs

/-- A full journal gives up its oldest advisory record, or else its oldest record (R155). -/
theorem makeRoom_of_full (j : FaultJournal) (front rest : List Record) (x : Record) (full : j.records.length = 64)
    (records : j.records = front ++ x :: rest) (before : ∀ y ∈ front, isAdvisory y.kind = false)
    (oldest : isAdvisory x.kind = true ∨ (front = [] ∧ ∀ y ∈ rest, isAdvisory y.kind = false)) :
    j.makeRoom = j.giveUp x (front ++ rest) := by
  have noRoom : ¬ j.records.length < Config.journalCapacity := by
    rw [full]
    decide
  have passes (y : Record) (h : y ∈ front) : ¬ isAdvisory y.kind = true := Bool.eq_false_iff.mp (before y h)
  unfold FaultJournal.makeRoom
  rw [if_neg noRoom, records]
  cases advisory : isAdvisory x.kind with
  | true =>
    have found : (front ++ x :: rest).find? (fun r : Record => isAdvisory r.kind) = some x :=
      List.find?_eq_some_iff_append.mpr ⟨advisory, front, rest, rfl, fun y hy => by simp [before y hy]⟩
    have erased : (front ++ x :: rest).eraseP (fun r : Record => isAdvisory r.kind) = front ++ rest := by
      rw [List.eraseP_append_right _ passes, List.eraseP_cons_of_pos (p := fun r : Record => isAdvisory r.kind) advisory]
    rw [found, erased]
  | false =>
    rw [advisory] at oldest
    obtain ⟨rfl, after⟩ := oldest.resolve_left Bool.false_ne_true
    have none : ([] ++ x :: rest).find? (fun r : Record => isAdvisory r.kind) = none :=
      List.find?_eq_none.mpr fun y hy => by
        rcases List.mem_cons.mp hy with rfl | later
        · simp [advisory]
        · simp [after y later]
    rw [none]
    rfl

/-- What an addition leaves of the list, the overflow count and the latches where one record was given up for it. -/
theorem add_of_giveUp (j : FaultJournal) (mask : Word) (r x : Record) (rest : List Record)
    (gives : j.retire.makeRoom = j.giveUp x rest) :
    (j.add mask r).records = rest ++ [{ r with seq := j.nextSeq, repeats := 1 }] ∧
    (j.add mask r).overflow = min (j.overflow + 1) 65535 ∧
    ∀ m : Fin 4, (j.add mask r).readLatches[m] =
      j.readLatches[m].map fun l => { l with held := l.held && l.copy.seq != x.seq } := by
  obtain ⟨-, -, -, records, overflow, latches⟩ := add_fields j mask r
  rw [records, overflow, latches, gives]
  exact ⟨rfl, rfl, unmark_getElem j x.seq⟩

/-- What an addition leaves of them where there is room and the oldest record has another number. -/
theorem add_of_room (j : FaultJournal) (mask : Word) (r : Record) (stays : ∀ x ∈ j.records.head?, x.seq ≠ j.nextSeq)
    (room : j.records.length < 64) :
    (j.add mask r).records = j.records ++ [{ r with seq := j.nextSeq, repeats := 1 }] ∧
    (j.add mask r).overflow = j.overflow ∧ (j.add mask r).readLatches = j.readLatches := by
  obtain ⟨-, -, -, records, overflow, latches⟩ := add_fields j mask r
  rw [records, overflow, latches, retire_of_ne j stays, makeRoom_of_lt j room]
  exact ⟨rfl, rfl, rfl⟩

/-- An armed single-shot capture is triggered by a kind in the mask (R173, R175). -/
theorem notify_triggered (c : CaptureUnit) (mask : Word) (kind : RecordKind) (armed : c.state = .armed)
    (single : c.mode = .single) (masked : mask.getLsbD (kindCode kind) = true) :
    c.notify mask kind = c.takeTrigger := if_pos ⟨armed, single, masked⟩

/-- Any other capture, or a kind outside the mask, is left. -/
theorem notify_left (c : CaptureUnit) (mask : Word) (kind : RecordKind)
    (left : c.state ≠ .armed ∨ c.mode = .continuous ∨ mask.getLsbD (kindCode kind) = false) :
    c.notify mask kind = c := by
  refine if_neg fun ⟨armed, single, masked⟩ => ?_
  rcases left with idle | continuous | unmasked
  · exact idle armed
  · exact absurd (single.symm.trans continuous) (by decide)
  · exact absurd (masked.symm.trans unmasked) (by decide)

/-- Settles O50: an addition with room, with a full journal, and with a recurring number. -/
theorem addedRecordsJoinTheTail : Obligations.AddedRecordsJoinTheTail := by
  refine ⟨fun j mask r => ?_, fun c mask kind => ⟨fun armed single masked => ?_, notify_left c mask kind⟩⟩
  · obtain ⟨next, attention, owner, records, -⟩ := add_fields j mask r
    refine ⟨next, attention, owner, by simp [records], fun stays => ⟨fun room => ?_, ?_⟩, ?_,
      openRef_add_open j mask r⟩
    · obtain ⟨joined, overflow, latches⟩ := add_of_room j mask r stays room
      exact ⟨joined, overflow, fun m => by rw [latches]⟩
    · intro front rest x full listed before oldest
      refine add_of_giveUp j mask r x (front ++ rest) ?_
      rw [retire_of_ne j stays, makeRoom_of_full j front rest x full listed before oldest]
    · intro x rest listed recurs bound
      refine add_of_giveUp j mask r x rest ?_
      rw [retire_of_eq j x rest listed recurs]
      rw [listed] at bound
      exact makeRoom_of_lt _ bound
  · rw [notify_triggered c mask kind armed single masked]
    exact ⟨fun zero => if_pos zero, fun some => if_neg some⟩

/-! ### Coalescing and closes -/

theorem streamRecord_empty (r : Record) (s : State) (empty : s.fj.records = []) : streamRecord r s = s.journalled r := by
  unfold streamRecord
  rw [empty]
  rfl

theorem streamRecord_newest (r newest : Record) (front : List Record) (s : State)
    (records : s.fj.records = front ++ [newest]) : streamRecord r s =
      if newest.kind = r.kind ∧ newest.source = r.source then
        { s with fj := { s.fj with records := front ++ [coalesced newest r] } }
      else s.journalled r := by
  unfold streamRecord
  rw [records, List.getLast?_concat, List.dropLast_concat]
  rfl

theorem isRefRecord_iff (ref : OpenRef) (kind : RecordKind) (source : Nat) (r : Record) :
    isRefRecord ref kind source r = true ↔ r.seq = ref.seq ∧ r.kind = kind ∧ r.source = source := by
  simp [isRefRecord, and_assoc]

/-- Emptying an open reference that is empty changes nothing. -/
theorem setRef_none_of_empty (j : FaultJournal) (kind : RecordKind) (source : Nat)
    (condition : (kind = .foldback ∧ source = 0) ∨ (kind = .derate ∧ 18 ≤ source ∧ source ≤ 28))
    (empty : j.openRef kind source = none) : j.setRef kind source none = j := by
  rcases condition with ⟨rfl, rfl⟩ | ⟨rfl, low, high⟩
  · have ref : j.foldbackRef = none := empty
    rw [FaultJournal.setRef, if_pos rfl, ← ref]
  · have place : 18 ≤ source ∧ source < 29 := ⟨low, by omega⟩
    have ref : j.derateRefs[source - 18] = none := by simpa [FaultJournal.openRef, place] using empty
    have refs : (Vector.ofFn fun k : Fin 11 => if 18 + k.val = source then none else j.derateRefs[k]) = j.derateRefs := by
      ext i hi : 1
      rw [Vector.getElem_ofFn]
      split
      · next same =>
        subst same
        simpa using ref.symm
      · rfl
    rw [FaultJournal.setRef, if_neg (by decide), if_pos rfl, refs]

/-- Emptying an open reference touches the references alone. -/
theorem setRef_frame (j : FaultJournal) (kind : RecordKind) (source : Nat) (x : Option OpenRef) :
    j.setRef kind source x = { j with
      foldbackRef := (j.setRef kind source x).foldbackRef, derateRefs := (j.setRef kind source x).derateRefs } := by
  unfold FaultJournal.setRef
  repeat' split
  all_goals rfl

/-- A close of a condition that is not open adds its record with duration 0 (R158). -/
theorem closeRecord_unopened (kind : RecordKind) (source : Nat) (value : Int) (s : State)
    (empty : s.fj.openRef kind source = none) : closeRecord kind source value s =
      s.journalled { eventRecord s kind source value with closedFlag := true } := by
  unfold closeRecord
  rw [empty]
  rfl

/-- A close whose open record has left the journal adds its record with the duration (R158). -/
theorem closeRecord_gone (kind : RecordKind) (source : Nat) (value : Int) (s : State) (ref : OpenRef)
    (opened : s.fj.openRef kind source = some ref)
    (gone : ∀ y ∈ s.fj.records, ¬ (y.seq = ref.seq ∧ y.kind = kind ∧ y.source = source)) :
    closeRecord kind source value s = State.journalled { s with fj := s.fj.setRef kind source none }
      { eventRecord s kind source value with closedFlag := true, extra := s.msCounter - ref.timestamp } := by
  obtain ⟨records, -⟩ := setRef_keeps s.fj kind source none
  have absent : ¬ (s.fj.setRef kind source none).records.any (isRefRecord ref kind source) = true := by
    rw [records, List.any_eq_true]
    rintro ⟨y, held, named⟩
    exact gone y held ((isRefRecord_iff _ _ _ _).mp named)
  unfold closeRecord
  rw [opened]
  exact if_neg absent

/-- Changing the elements that pass a test changes nothing where none passes. -/
theorem map_ite_of_none {α : Type} {l : List α} {p : α → Bool} (f : α → α) (none : ∀ y ∈ l, ¬ p y = true) :
    (l.map fun y => if p y then f y else y) = l :=
  (List.map_congr_left fun y hy => if_neg (none y hy)).trans (List.map_id' l)

/-- A close whose open record is held marks it closed in its place (R158). -/
theorem closeRecord_inPlace (kind : RecordKind) (source : Nat) (value : Int) (s : State) (ref : OpenRef)
    (front rest : List Record) (x : Record) (opened : s.fj.openRef kind source = some ref)
    (listed : s.fj.records = front ++ x :: rest) (named : x.seq = ref.seq ∧ x.kind = kind ∧ x.source = source)
    (others : ∀ y ∈ front ++ rest, y.seq ≠ ref.seq) :
    closeRecord kind source value s = { s with fj := { s.fj.setRef kind source none with records :=
      front ++ { x with closedFlag := true, extra := s.msCounter - ref.timestamp } :: rest } } := by
  obtain ⟨records, -⟩ := setRef_keeps s.fj kind source none
  rw [listed] at records
  have isRef := (isRefRecord_iff ref kind source x).mpr named
  have present : (s.fj.setRef kind source none).records.any (isRefRecord ref kind source) = true := by
    rw [records, List.any_eq_true]
    exact ⟨x, by simp, isRef⟩
  have unnamed (y : Record) (h : y ∈ front ++ rest) : ¬ isRefRecord ref kind source y = true := fun named =>
    others y h ((isRefRecord_iff ref kind source y).mp named).1
  unfold closeRecord
  rw [opened]
  refine (if_pos present).trans ?_
  rw [records, List.map_append, List.map_cons, map_ite_of_none _ fun y hy => unnamed y (List.mem_append_left rest hy),
    map_ite_of_none _ fun y hy => unnamed y (List.mem_append_right front hy), if_pos isRef]
  rfl

/-- Settles O51: a stream record by the newest one, and a close by its open reference. -/
theorem recordsCoalesceAndClose : Obligations.RecordsCoalesceAndClose := by
  refine ⟨streamRecord_empty, fun r newest front s records => ?_, fun kind source value s condition => ?_⟩
  · rw [streamRecord_newest r newest front s records]
    exact ⟨fun kind source => if_pos ⟨kind, source⟩, fun apart => if_neg apart⟩
  · refine ⟨s.fj.setRef kind source none, setRef_frame _ _ _ _, openRef_setRef_none _ _ _,
      fun other k named apart => openRef_setRef_other _ _ _ _ _ condition named apart,
      fun ref front rest x opened listed seq k c others =>
        closeRecord_inPlace kind source value s ref front rest x opened listed ⟨seq, k, c⟩ others,
      closeRecord_gone kind source value s, fun empty => ?_⟩
    rw [closeRecord_unopened kind source value s empty, setRef_none_of_empty s.fj kind source condition empty]

/-! ### The ownership word -/

theorem exec_ownershipWordRead (m : Master) (x : BitVec 4) (s : State) (operating : s.operating) :
    exec (.ownershipWordRead m x) s =
      .next (State.replied { s with fj := (s.fj.readOwnership m).2 } m x (s.fj.readOwnership m).1) :=
  if_neg (Bool.eq_false_iff.mp operating)

theorem exec_ownershipWordWrite (m : Master) (lanes : Lanes) (value : Word) (s : State) (operating : s.operating) :
    exec (.ownershipWordWrite m lanes value) s = .next (if fullLanes lanes && isOwner s.fj.owner m
      then { s with fj := { s.fj with owner := .free } } else s.misused ownershipOffset) :=
  congrArg Host.Outcome.next (if_neg (Bool.eq_false_iff.mp operating))

/-- A free journal is granted to a reader that can own it, whose latch empties (R159). -/
theorem readOwnership_granted (j : FaultJournal) (m : Master) (o : Owner) (free : j.owner = .free)
    (owner : ownerFor m = some o) :
    j.readOwnership m = (0, { j with owner := o, readLatches := j.readLatches.set (masterIndex m) none }) := by
  rw [FaultJournal.readOwnership, free, owner]
  rfl

/-- A reader that cannot own the journal, and any reader of an owned one, is answered busy (R159). -/
theorem readOwnership_busy (j : FaultJournal) (m : Master) (busy : j.owner = .free → ownerFor m = none) :
    j.readOwnership m = (busyReply j.owner, j) := by
  unfold FaultJournal.readOwnership
  split
  · next free owner => exact absurd (owner.symm.trans (busy free)) (Option.some_ne_none _)
  · rfl

theorem fullLanes_iff (lanes : Lanes) : fullLanes lanes = true ↔ lanes = 0xF := beq_iff_eq

/-- Settles O52: a read by the owner and the reader, a write by its lanes and the writer. -/
theorem ownershipIsTakenByReadingAndReleasedByWriting : Obligations.OwnershipIsTakenByReadingAndReleasedByWriting := by
  intro m s operating
  refine ⟨fun x => ?_, fun lanes value => ?_⟩
  · rw [exec_ownershipWordRead m x s operating]
    have busy (h : s.fj.owner = .free → ownerFor m = none) := readOwnership_busy s.fj m h
    refine ⟨fun processor free => ?_, fun service free => ?_, fun other free => ?_, fun owned => ?_, fun owned => ?_⟩
    · subst processor
      rw [readOwnership_granted s.fj .cp .cp free rfl]
      rfl
    · subst service
      rw [readOwnership_granted s.fj .sp .sp free rfl]
      rfl
    · rw [busy fun _ => by rcases other with rfl | rfl <;> rfl, free]
      rfl
    · rw [busy fun free => absurd (owned.symm.trans free) (by decide), owned]
      rfl
    · rw [busy fun free => absurd (owned.symm.trans free) (by decide), owned]
      rfl
  · have releases : (fullLanes lanes && isOwner s.fj.owner m) = true ↔
        lanes = 0xF ∧ ((m = .cp ∧ s.fj.owner = .cp) ∨ (m = .sp ∧ s.fj.owner = .sp)) := by
      rw [Bool.and_eq_true, fullLanes_iff, isOwner_iff]
    rw [exec_ownershipWordWrite m lanes value s operating]
    refine ⟨fun full owner => ?_, fun stray => ?_⟩
    · rw [if_pos (releases.mpr ⟨full, owner⟩)]
    · rw [if_neg fun taken => not_and_or.mpr stray (releases.mp taken)]
      rfl

/-! ### The words of a record -/

theorem kindCode_le (k : RecordKind) : kindCode k ≤ 20 := by
  cases k with
  | trip k => exact (tripCode_le k).trans (by decide)
  | _ => decide

theorem recordWord0_toNat (r : Record) :
    (recordWord r 0).toNat = r.seq.toNat + 2 ^ 16 * kindCode r.kind + 2 ^ 24 * (r.source % 32) := by
  have seq := r.seq.isLt
  have kind := kindCode_le r.kind
  refine pack_toNat _ _ ?_ (by omega)
  simp only [packSum_cons, packSum_nil]
  omega

theorem recordWord2_toNat (r : Record) : (recordWord r 2).toNat =
    (r.value % 65536).toNat + 2 ^ 16 * (r.repeats % 256) + 2 ^ 24 * seqStateCode r.seqState + 2 ^ 27 * r.openFlag.toNat +
      2 ^ 28 * r.closedFlag.toNat + 2 ^ 29 * r.automatic.toNat + 2 ^ 30 * r.noRf.toNat := by
  have value := signed16_mod r.value
  have state := seqStateCode_le r.seqState
  have opened := toNat_lt_two r.openFlag
  have closed := toNat_lt_two r.closedFlag
  have automatic := toNat_lt_two r.automatic
  have noRf := toNat_lt_two r.noRf
  refine pack_toNat _ _ ?_ (by omega)
  simp only [packSum_cons, packSum_nil]
  omega

/-! ### The head window -/

theorem exec_headWindowWordRead (m : Master) (w : Fin 4) (x : BitVec 4) (s : State) (operating : s.operating) :
    exec (.headWindowWordRead m w x) s =
      .next (State.replied { s with fj := (s.fj.readWindow m w).2 } m x (s.fj.readWindow m w).1) :=
  congrArg Host.Outcome.next (if_neg (Bool.eq_false_iff.mp operating))

theorem exec_headWindowWord0Read (m : Master) (x : BitVec 4) (s : State) (operating : s.operating) :
    exec (.headWindowWord0Read m x) s =
      .next (State.replied { s with fj := (s.fj.readWindow m 0).2 } m x (s.fj.readWindow m 0).1) :=
  exec_headWindowWordRead m 0 x s operating

theorem eq_masterIndex {tag : Fin 4} {m : Master} (h : tag.val = masterTag m) : tag = masterIndex m := by
  apply Fin.ext
  cases m <;> exact h

theorem windowLatch_word0 (j : FaultJournal) (m : Master) : j.windowLatch m 0 = j.latchHead := by
  unfold FaultJournal.windowLatch
  cases j.readLatches[masterIndex m] <;> rfl

theorem windowLatch_later (j : FaultJournal) (m : Master) (w : Fin 4) (later : w ≠ 0) :
    j.windowLatch m w = (j.readLatches[masterIndex m]).getD j.latchHead := by
  unfold FaultJournal.windowLatch
  cases j.readLatches[masterIndex m] with
  | none => rfl
  | some l => exact if_neg later

/-- A window read that removes nothing answers from its latch and fills it. -/
theorem readWindow_kept (j : FaultJournal) (m : Master) (w : Fin 4)
    (keeps : ¬ (w = 3 ∧ isOwner j.owner m = true ∧ (j.windowLatch m w).held = true)) :
    j.readWindow m w = (recordWord (j.windowLatch m w).copy w, j.setLatch m (some (j.windowLatch m w))) :=
  congrArg _ (if_neg keeps)

/-- The owner's word 3 read of a held record removes it (R162). -/
theorem readWindow_drained (j : FaultJournal) (m : Master) (owner : isOwner j.owner m = true)
    (held : (j.windowLatch m 3).held = true) : j.readWindow m 3 = ((j.windowLatch m 3).copy.extra,
      (j.setLatch m (some (j.windowLatch m 3))).remove (j.windowLatch m 3).copy.seq) :=
  congrArg _ (if_pos ⟨rfl, owner, held⟩)

/-- Settles O53: the window read by its word, and by whether it drains. -/
theorem headWindowLatchesAndDrains : Obligations.HeadWindowLatchesAndDrains := by
  refine ⟨fun r => ⟨recordWord0_toNat r, rfl, recordWord2_toNat r, rfl⟩,
    fun m x s tag head operating tagged hhead => ?_⟩
  obtain rfl := eq_masterIndex tagged
  obtain rfl : s.fj.latchHead = head := by
    rw [hhead, FaultJournal.latchHead]
    cases s.fj.records <;> rfl
  refine ⟨?_, fun w l later hl => ?_⟩
  · rw [exec_headWindowWord0Read m x s operating, readWindow_kept _ _ _ (by simp), windowLatch_word0]
    rfl
  rw [← windowLatch_later s.fj m w later] at hl
  subst hl
  rw [exec_headWindowWordRead m w x s operating, ← isOwner_iff]
  refine ⟨fun keeps => ?_, fun last owner held => ?_⟩
  · rw [readWindow_kept _ _ _ keeps]
    rfl
  · subst last
    rw [readWindow_drained s.fj m owner held]
    refine ⟨_, rfl, rfl, rfl, ?_, fun other different => ?_⟩
    · refine (unmark_getElem _ _ _).trans ?_
      simp [FaultJournal.setLatch]
    · refine (unmark_getElem _ _ _).trans ?_
      rw [FaultJournal.setLatch, getElem_set_of_ne _ _ _ _ different]

/-! ### S0 -/

/-- Settles O54: the reply is S0 as it stands, whose fields are its packed number's. -/
theorem statusReadClearsBothFlags : Obligations.StatusReadClearsBothFlags := by
  intro x s operating
  have number := statusS0_toNat s
  have state := seqStateCode_le s.sq.state
  have destination := destinationCode_le s.sq.destination
  have attention := toNat_lt_two s.fj.attention
  have expiry := toNat_lt_two s.bp.expiryFlag
  have owner := ownerCode_le s.fj.owner
  have capture := captureStateCode_le s.cap.state
  have bit (i : Nat) (b : Bool) (h : (statusS0 s).toNat / 2 ^ i % 2 = b.toNat) : (statusS0 s).getLsbD i = b :=
    (flag_eq_getLsbD _ _).symm.trans (flag_of_bit h)
  refine ⟨statusS0 s, if_neg (Bool.eq_false_iff.mp operating), bit _ _ ?_, bit _ _ ?_, rfl, ?_, ?_, ?_, ?_, ?_⟩
  all_goals
    rw [number]
    omega

end Sys2Proof.Machine
end

section
/-! PROOF. The records of one completion, in their order (R154): on any journal by the outcome of its demands, and on an empty
journal, where every addition joins the tail, as one list. -/

namespace Sys2Proof.Machine

/-! ### Records added one after another -/

/-- The state with records added one after another. -/
def State.journalledAll (s : State) (rs : List Record) : State := rs.foldl State.journalled s

theorem journalledAll_append (s : State) (rs qs : List Record) :
    s.journalledAll (rs ++ qs) = (s.journalledAll rs).journalledAll qs := List.foldl_append

theorem journalledAll_map {α : Type} (s : State) (f : α → Record) (l : List α) :
    s.journalledAll (l.map f) = l.foldl (fun u a => u.journalled (f a)) s := List.foldl_map

/-- No record was given up since the journal was empty: the oldest was numbered as many additions ago as are held. -/
def FaultJournal.Unshed (j : FaultJournal) : Prop :=
  ∀ x ∈ j.records.head?, x.seq = j.nextSeq - BitVec.ofNat 16 j.records.length

theorem unshed_of_empty (j : FaultJournal) (empty : j.records = []) : j.Unshed := by
  intro x oldest
  rw [empty] at oldest
  exact absurd oldest (Option.not_mem_none x)

/-- With room, an addition to a journal that gave up nothing joins its tail, and still none is given up. -/
theorem FaultJournal.Unshed.add {j : FaultJournal} (h : j.Unshed) (mask : Word) (r : Record)
    (room : j.records.length < 64) :
    (j.add mask r).records = j.records ++ [{ r with seq := j.nextSeq, repeats := 1 }] ∧ (j.add mask r).Unshed := by
  have stays : ∀ x ∈ j.records.head?, x.seq ≠ j.nextSeq := by
    intro x oldest
    have filled : 0 < j.records.length := List.length_pos_of_mem (List.mem_of_mem_head? oldest)
    rw [h x oldest]
    bv_omega
  obtain ⟨next, -⟩ := add_fields j mask r
  obtain ⟨joined, -⟩ := add_of_room j mask r stays room
  refine ⟨joined, fun x oldest => ?_⟩
  rw [joined] at oldest ⊢
  rw [next, List.length_append, List.length_singleton]
  cases held : j.records with
  | nil =>
    rw [held] at oldest
    obtain rfl := Option.some.inj oldest
    simp
  | cons y rest =>
    rw [held] at oldest
    obtain rfl := Option.some.inj oldest
    rw [h y (by rw [held]; rfl), held]
    bv_omega

/-- The condition or event a record is of. -/
def Record.named (r : Record) : RecordKind × Nat := (r.kind, r.source)

/-- Records added with room for them all to a journal that gave up nothing join its tail in their order. -/
theorem journalledAll_named (rs : List Record) {s : State} (h : s.fj.Unshed)
    (room : s.fj.records.length + rs.length ≤ 64) :
    (s.journalledAll rs).fj.records.map Record.named = s.fj.records.map Record.named ++ rs.map Record.named := by
  induction rs generalizing s with
  | nil => simp [State.journalledAll]
  | cons r rs ih =>
    rw [List.length_cons] at room
    obtain ⟨joined, unshed⟩ := h.add s.lt.effective.general.attentionMask r (by omega)
    have later := ih (s := s.journalled r) unshed (by
      rw [show (s.journalled r).fj.records = _ from joined, List.length_append, List.length_singleton]
      omega)
    rw [show (s.journalled r).fj.records = _ from joined, List.map_append, List.append_assoc] at later
    exact later

/-! ### The records of an evaluation that closes nothing -/

/-- The record of a channel failure or restoration (R23). -/
def channelEventRecord (s : State) (x : ChannelEvent) : Record :=
  eventRecord s (if x.restored then .channelRestored else .channelFailed) x.channel.val x.value

/-- The DERATE open of a thermal channel (R32). -/
def derateOpening (s : State) (ev : Evaluation) (k : Fin 11) : Record :=
  { eventRecord s .derate (18 + k.val) (ev.fractions[k] : Nat) with openFlag := true }

/-- The FOLDBACK open with the new V, where it stands below 4095 (R54). -/
def foldbackOpening (s : State) (v : Nat) : List Record :=
  if v < 4095 then [{ eventRecord s .foldback 0 v with openFlag := true }] else []

/-- The record of a module newly gated, with its cause set (R62). -/
def gatedRecord (s : State) (after : Vector Admission 8) (m : Fin 8) : Record :=
  eventRecord s .moduleGated m.val
    (after[m].hot.toNat + 2 * after[m].mismatch.toNat + 4 * after[m].sensor.toNat)

/-- The thermal channels an evaluation derates, in ascending order. -/
def deratedChannels (ev : Evaluation) : List (Fin 11) := (List.finRange 11).filter fun k => decide (ev.fractions[k] < 4096)

/-- The records of an evaluation with no condition open before it, in the order of R154. -/
def evaluationRecords (s : State) (ev : Evaluation) (v : Nat) (after : Vector Admission 8) : List Record :=
  ev.channelEvents.map (channelEventRecord s) ++ (deratedChannels ev).map (derateOpening s ev) ++ foldbackOpening s v ++
  (newlyGated s.mu.admission after).map (gatedRecord s after)

theorem evaluationRecorded_opens (s : State) (ev : Evaluation) (v : Nat) (after : Vector Admission 8)
    (noFoldback : s.mu.foldbackOpen = false)
    (noDerate : ∀ k : Fin 11, s.td.channels[thermalChannel k].derateOpen = false) :
    s.evaluationRecorded ev v after = s.journalledAll (evaluationRecords s ev v after) := by
  have foldback (u : State) : u.journalledAll (foldbackOpening s v) =
      if v < 4095 then u.journalled { eventRecord s .foldback 0 v with openFlag := true } else u := by
    unfold foldbackOpening
    split <;> rfl
  unfold State.evaluationRecorded evaluationRecords
  simp only [noFoldback, noDerate, Bool.false_eq_true, if_false, journalledAll_append, journalledAll_map, foldback,
    deratedChannels, newlyGated, List.foldl_filter, decide_eq_true_eq]
  rfl

theorem evaluationRecords_length (s : State) (ev : Evaluation) (v : Nat) (after : Vector Admission 8) :
    (evaluationRecords s ev v after).length ≤ ev.channelEvents.length + 20 := by
  have derated : (deratedChannels ev).length ≤ 11 := (List.length_filter_le _ _).trans List.length_finRange.le
  have gated : (newlyGated s.mu.admission after).length ≤ 8 := (List.length_filter_le _ _).trans List.length_finRange.le
  have foldback : (foldbackOpening s v).length ≤ 1 := by
    unfold foldbackOpening
    split <;> simp
  simp only [evaluationRecords, List.length_append, List.length_map]
  omega

theorem evaluationRecords_named (s : State) (ev : Evaluation) (v : Nat) (after : Vector Admission 8) :
    (evaluationRecords s ev v after).map Record.named =
      ev.channelEvents.map (fun x => (if x.restored then RecordKind.channelRestored else .channelFailed, x.channel.val)) ++
      (deratedChannels ev).map (fun k => (RecordKind.derate, 18 + k.val)) ++
      (if v < 4095 then [(RecordKind.foldback, 0)] else []) ++
      (newlyGated s.mu.admission after).map (fun m => (RecordKind.moduleGated, m.val)) := by
  have foldback : (foldbackOpening s v).map Record.named = if v < 4095 then [(RecordKind.foldback, 0)] else [] := by
    unfold foldbackOpening
    split <;> rfl
  simp only [evaluationRecords, List.map_append, List.map_map, foldback]
  rfl

/-! ### The completion -/

/-- A live state is none that is not live. -/
theorem SeqState.live.ne_of_not {st other : SeqState} (h : st.live) (notLive : ¬ other.live) : st ≠ other :=
  fun same => notLive (same ▸ h)

/-- In OFF a completion adds the evaluation's records alone. -/
theorem completeEvaluation_off (ev : Evaluation) (s : State) (off : s.sq.state = .off) :
    (completeEvaluation ev s).fj = (completionRecorded ev s).fj := by
  obtain ⟨-, fj, -⟩ := completeEvaluation_settled s ev
  obtain ⟨-, recorded, -⟩ := demandsEntered_none ev s (.inl off)
  rw [fj, settleCompletion_notTripped s ev (by simp [off])]
  exact recorded

/-- A completion in a live state adds the evaluation's records alone and stays there, or trips with its TRIP record after
them. -/
theorem completeEvaluation_live (ev : Evaluation) (s : State) (live : s.sq.state.live) :
    ((completeEvaluation ev s).sq = s.sq ∧ (completeEvaluation ev s).fj = (completionRecorded ev s).fj) ∨
    ∃ k, (completeEvaluation ev s).sq.state = .discharge ∧ (completeEvaluation ev s).sq.primary = some k ∧
      (completeEvaluation ev s).fj =
        ((completionRecorded ev s).journalled (completionTrip s k (completeEvaluation ev s).sq.secondary)).fj := by
  have notTripped : s.sq.state ≠ .tripped := live.ne_of_not id
  obtain ⟨sq, fj, -⟩ := completeEvaluation_settled s ev
  rw [sq, fj, settleCompletion_notTripped s ev notTripped, ← demandsEntered]
  cases demands : demandsOf ev s with
  | nil =>
    obtain ⟨kept, recorded, -⟩ := demandsEntered_none ev s (.inr demands)
    exact .inl ⟨kept, recorded⟩
  | cons k ks =>
    obtain ⟨tripped, -, recorded, -⟩ := demandsEntered_live ev s k ks demands live
    rw [tripped]
    exact .inr ⟨k, rfl, rfl, recorded⟩

/-- Outside TRIPPED a completion leaves the Mismatch Unit it adopted. -/
theorem completeEvaluation_mu (ev : Evaluation) (s : State) (notTripped : s.sq.state ≠ .tripped) :
    (completeEvaluation ev s).mu = mismatchAdopted ev s := by
  obtain ⟨-, -, mu, -⟩ := completeEvaluation_settled s ev
  rw [mu, settleCompletion_notTripped s ev notTripped]
  exact demandsEntered_mu ev s

/-- The records of a completion on any journal: alone in OFF and where no demand trips, before the TRIP record where one
does. -/
theorem completeEvaluation_records (ev : Evaluation) (s : State) :
    (s.sq.state = .off ∨ (s.sq.state.live ∧ (completeEvaluation ev s).sq.state ≠ .discharge) →
      (completeEvaluation ev s).fj = (completionRecorded ev s).fj) ∧
    (s.sq.state.live → (completeEvaluation ev s).sq.state = .discharge →
      ∀ k, (completeEvaluation ev s).sq.primary = some k → (completeEvaluation ev s).fj =
        ((completionRecorded ev s).journalled (completionTrip s k (completeEvaluation ev s).sq.secondary)).fj) := by
  refine ⟨?_, fun live discharge k primary => ?_⟩
  · rintro (off | ⟨live, stays⟩)
    · exact completeEvaluation_off ev s off
    · rcases completeEvaluation_live ev s live with ⟨-, alone⟩ | ⟨k, trips, -⟩
      · exact alone
      · exact absurd trips stays
  · rcases completeEvaluation_live ev s live with ⟨kept, -⟩ | ⟨k', -, cause, recorded⟩
    · exact absurd (kept ▸ discharge) (live.ne_of_not id)
    · obtain rfl := Option.some.inj (cause.symm.trans primary)
      exact recorded

/-- On an empty journal with no condition open, the records of an evaluation, and one more if a trip follows, join in their
order. -/
theorem completionRecorded_named (ev : Evaluation) (s : State) (empty : s.fj.records = [])
    (few : ev.channelEvents.length ≤ 30) (noFoldback : s.mu.foldbackOpen = false)
    (noDerate : ∀ k : Fin 11, s.td.channels[thermalChannel k].derateOpen = false) (trips : List Record)
    (one : trips.length ≤ 1) :
    ((completionRecorded ev s).journalledAll trips).fj.records.map Record.named =
      (evaluationRecords s ev (mismatchAdopted ev s).v (mismatchAdopted ev s).admission).map Record.named ++
        trips.map Record.named := by
  have length := evaluationRecords_length s ev (mismatchAdopted ev s).v (mismatchAdopted ev s).admission
  rw [completionRecorded, evaluationRecorded_opens s ev _ _ noFoldback noDerate, ← journalledAll_append,
    journalledAll_named _ (unshed_of_empty s.fj empty) (by simp only [empty, List.length_nil, List.length_append]; omega),
    empty, List.map_append]
  rfl

/-- Settles O24: the records on any journal, and their kinds and sources on an empty one. -/
theorem completionRecordsComeInOrder : Obligations.CompletionRecordsComeInOrder := by
  refine ⟨fun ev s hev => ?_, fun ev s hev empty few live noFoldback noDerate => ?_⟩
  · obtain ⟨alone, tripped⟩ := completeEvaluation_records ev s
    exact ⟨_, mismatchAdopted ev s, completionRecorded ev s, exec_evaluationCompletion s ev hev,
      adoptMismatch_completed ev s, rfl, alone, tripped⟩
  · have notTripped : s.sq.state ≠ .tripped := live.ne_of_not id
    refine ⟨_, exec_evaluationCompletion s ev hev, ?_⟩
    rw [completeEvaluation_mu ev s notTripped]
    change (completeEvaluation ev s).fj.records.map Record.named = _
    rcases completeEvaluation_live ev s live with ⟨kept, alone⟩ | ⟨k, trips, cause, recorded⟩
    · have joined := completionRecorded_named ev s empty few noFoldback noDerate [] (Nat.zero_le 1)
      rw [evaluationRecords_named] at joined
      rw [alone, kept]
      cases s.sq.primary with
      | none => exact joined
      | some k =>
        have stays : s.sq.state ≠ .discharge := live.ne_of_not id
        dsimp only
        rw [if_neg stays]
        exact joined
    · have joined := completionRecorded_named ev s empty few noFoldback noDerate
        [completionTrip s k (completeEvaluation ev s).sq.secondary] (Nat.le_refl 1)
      rw [evaluationRecords_named] at joined
      rw [recorded, cause, trips]
      exact joined

end Sys2Proof.Machine
end

section
/-! PROOF. What one command can do to the capture, and that it stays within its sizes, its post count and its cursors. A command
reaches the capture by the notices of the records it adds, and else by one operation of the unit itself. -/

namespace Sys2Proof.Machine

/-! ### Notices -/

/-- A capture told of any number of added records, one after another (R153, R173). -/
def Notified : CaptureUnit → CaptureUnit → Prop :=
  Relation.ReflTransGen fun c d => ∃ (mask : Word) (kind : RecordKind), d = c.notify mask kind

theorem Notified.refl (c : CaptureUnit) : Notified c c := Relation.ReflTransGen.refl

/-- A change that leaves the capture leaves it as it was told. -/
theorem Notified.of_kept {c : CaptureUnit} {s t : State} (h : Notified c s.cap) (cap : t.cap = s.cap := by simp) :
    Notified c t.cap := cap ▸ h

/-- Being told of records keeps the capture sound. -/
theorem Notified.sound {c d : CaptureUnit} (h : Notified c d) (hc : CaptureSound c) : CaptureSound d := by
  induction h with
  | refl => exact hc
  | tail _ told ih =>
    obtain ⟨mask, kind, rfl⟩ := told
    exact notify_sound _ ih mask kind

section
variable {c : CaptureUnit} {s : State}

theorem notified_addRecord (h : Notified c s.cap) (r : Record) :
    Notified c (addRecord r s).cap := Relation.ReflTransGen.tail h ⟨_, _, rfl⟩

/-- A stream record is added, or joins the newest record unheard. -/
theorem notified_streamRecord (h : Notified c s.cap) (r : Record) : Notified c (streamRecord r s).cap := by
  unfold streamRecord
  repeat' split
  · exact notified_addRecord h r
  · exact h
  · exact notified_addRecord h r

/-- A close marks its record unheard, or is added. -/
theorem notified_closeRecord (h : Notified c s.cap) (kind : RecordKind) (source : Nat) (value : Int) :
    Notified c (closeRecord kind source value s).cap := by
  unfold closeRecord
  dsimp only
  repeat' split
  · exact notified_addRecord h _
  · exact h
  · exact notified_addRecord (s := s.setFj _) h _

/-- Operations that each only tell the capture of records only do so one after another. -/
theorem notified_foldl {α : Type} {f : State → α → State} (step : ∀ u a, Notified c u.cap → Notified c (f u a).cap)
    (l : List α) (h : Notified c s.cap) : Notified c (l.foldl f s).cap :=
  List.foldlRecOn l f h fun u hu a _ => step u a hu

/-! ### The sequencer and the arc path -/

theorem notified_tripDemands (h : Notified c s.cap) (ks : List TripKind) : Notified c (tripDemands ks s).cap := by
  have entered : Notified c (ks.foldl enterDemand s).cap := h.of_kept
  unfold tripDemands
  cases ks with
  | nil => exact h
  | cons k ks =>
    dsimp only
    split
    · exact notified_addRecord entered _
    · exact entered

theorem notified_performRestart (h : Notified c s.cap) (automatic : Bool) (tag : Nat) :
    Notified c (performRestart automatic tag s).cap := by
  have closed : Notified c (closeFoldback (clearCauses s)).cap := by
    unfold closeFoldback
    split
    · exact notified_closeRecord (s := clearCauses s) h _ _ _
    · exact h
  have prepared : Notified c (prepareRestart automatic s).cap :=
    notified_foldl (fun _ _ hu => notified_addRecord hu _) _ closed
  exact notified_addRecord prepared _

theorem notified_autoRestart (h : Notified c s.cap) : Notified c (autoRestart s).cap := by
  rcases autoRestart_cases s with kept | ⟨-, restarted⟩
  · rw [kept]; exact h
  · rw [restarted]; exact notified_performRestart h true 0

theorem notified_lossDemand (h : Notified c s.cap) : Notified c (lossDemand s).cap := by
  unfold lossDemand
  cases s.sq.state with
  | settle | run | mute => exact notified_tripDemands h _
  | off | discharge | tripped => exact h

theorem notified_arcEvent (h : Notified c s.cap) (i : Fin 3) : Notified c (arcEvent i s).cap := by
  have told : Notified c (struck i s).cap := notified_addRecord (s := { s with am := _ }) h _
  by_cases live : s.sq.state.live
  · rw [arcEvent_live i s live, strike_eq]
    split
    · exact notified_tripDemands told _
    · exact told.of_kept
  · rw [arcEvent_notLive i s live]
    exact notified_addRecord h _

/-! ### The limit table -/

theorem notified_takeEffectNow (h : Notified c s.cap) (t : EffectiveTable) : Notified c (takeEffectNow t s).cap := by
  unfold takeEffectNow
  dsimp only
  exact notified_foldl (fun _ _ hu => notified_closeRecord hu _ _ _) _ h.of_kept

theorem notified_takePendingNow (h : Notified c s.cap) : Notified c (takePendingNow s).cap :=
  notified_takeEffectNow (s := s.setLt { s.lt with pendingSet := PendingUpdates.empty }) h _

theorem notified_handOver (h : Notified c s.cap) (x : Update) : Notified c (handOver x s).cap := by
  unfold handOver
  split
  · exact notified_takeEffectNow h _
  · exact h

theorem notified_formWordB (h : Notified c s.cap) (m : Master) (e : TwoWordEntry) (w : Word) :
    Notified c (formWordB m e w s).cap := by
  unfold formWordB
  repeat' split
  · exact notified_handOver (s := s.setBp (s.bp.setStaging m none)) h _
  all_goals exact notified_handOver h _

/-- A write to a limit entry tells the capture of no more than taking it does. -/
theorem notified_limitWrite (h : Notified c s.cap) (m : Master) (lanes : Lanes) (offset : Nat) (w : Word)
    {take : State → State} (taken : ∀ u, Notified c u.cap → Notified c (take u).cap) :
    Notified c (limitWrite m lanes offset w take s).cap := by
  unfold limitWrite
  dsimp only
  repeat' split
  · exact h
  · exact taken (s.forwardWrite _ _ _) h
  · exact h

theorem notified_limitWriteA (h : Notified c s.cap) (m : Master) (lanes : Lanes) (e : TwoWordEntry) (w : Word) :
    Notified c (limitWriteA m lanes e w s).cap :=
  notified_limitWrite h _ _ _ _ fun _ hu => hu.of_kept

theorem notified_limitWriteB (h : Notified c s.cap) (m : Master) (lanes : Lanes) (e : TwoWordEntry) (w : Word) :
    Notified c (limitWriteB m lanes e w s).cap :=
  notified_limitWrite h _ _ _ _ fun _ hu => notified_formWordB hu m e w

theorem notified_limitWriteOne (h : Notified c s.cap) (m : Master) (lanes : Lanes) (e : OneWordEntry) (w : Word) :
    Notified c (limitWriteOne m lanes e w s).cap :=
  notified_limitWrite h _ _ _ _ fun _ hu => notified_handOver hu _

/-! ### Telemetry and a completion's records -/

theorem notified_takeHeader (h : Notified c s.cap) (w : Word) : Notified c (takeHeader w s).cap := by
  have checked : Notified c (sequenceCheck (lowByte w) s).cap := by
    unfold sequenceCheck
    split
    · exact notified_streamRecord h _
    · exact h
  exact checked

theorem notified_placeSnapshot (h : Notified c s.cap) (n : Snapshot) : Notified c (placeSnapshot n s).cap := by
  have checked : Notified c (overrunCheck s).cap := by
    unfold overrunCheck
    split
    · exact notified_streamRecord h _
    · exact h
  unfold placeSnapshot
  split
  · exact checked
  · exact h.of_kept

theorem notified_takeSlot (h : Notified c s.cap) (slot : Fin 32) (w : Word) : Notified c (takeSlot slot w s).cap := by
  unfold takeSlot takeEnd
  repeat' split
  · exact h.of_kept
  · exact notified_takeHeader h w
  · exact notified_placeSnapshot (s := s.setTd (s.td.closeFrame w s.msCounter)) h _
  · exact h

theorem notified_telemetryWrite (h : Notified c s.cap) (m : Master) (lanes : Lanes) (slot : Fin 32) (w : Word) :
    Notified c (telemetryWrite m lanes slot w s).cap := by
  unfold telemetryWrite
  dsimp only
  repeat' split
  · exact h
  · exact notified_takeSlot (s := s.forwardWrite _ _ _) h slot w
  · exact h

theorem notified_journalDerate (h : Notified c s.cap) (ev : Evaluation) (before : Vector ChannelRecord 30) (k : Fin 11) :
    Notified c (journalDerate ev before s k).cap := by
  unfold journalDerate
  dsimp only
  repeat' split
  · exact h
  · exact notified_addRecord h _
  · exact notified_closeRecord h _ _ _
  · exact h

theorem notified_journalFoldback (h : Notified c s.cap) (before : Bool) (v : Nat) :
    Notified c (journalFoldback before v s).cap := by
  unfold journalFoldback
  repeat' split
  · exact h
  · exact notified_addRecord h _
  · exact notified_closeRecord h _ _ _
  · exact h

/-- A completion settled has told the capture of its records: those of the evaluation, layer by layer, those of its demands and
those of an automatic restart. -/
theorem notified_settleCompletion (h : Notified c s.cap) (ev : Evaluation) : Notified c (settleCompletion ev s).cap := by
  have adopted : Notified c (adoptResults ev s).cap := h.of_kept
  have channels := notified_foldl (f := journalChannel) (fun _ _ hu => notified_addRecord hu _) ev.channelEvents adopted
  have derates := notified_foldl (fun _ k hu => notified_journalDerate hu ev s.td.channels k) (List.finRange 11) channels
  have foldback := notified_journalFoldback derates s.mu.foldbackOpen (adoptResults ev s).mu.v
  have journalled : Notified c (journalCompletion ev s).cap :=
    notified_foldl (fun _ _ hu => notified_addRecord hu _) _ foldback
  exact notified_autoRestart (notified_tripDemands journalled _)

end

/-! ### What a command does -/

/-- What a command can do to the capture: tell it of records, and then append the frame record of a completion; or arm it,
trigger it, move a cursor within the frozen run, or reset it. -/
inductive CaptureEffect (c : CaptureUnit) : CaptureUnit → Prop
  /-- Records were added, or none. -/
  | notified {d : CaptureUnit} (h : Notified c d) : CaptureEffect c d
  /-- A completion adds its records, and appends a frame record of the latched pattern (R171, R172). -/
  | appended {d : CaptureUnit} (h : Notified c d) (seq : BitVec 8) (st : SeqState) (e : Nat)
      (channels : Vector ChannelRecord 30) : CaptureEffect c (d.append (frameRecord d.pattern seq st e channels))
  /-- A new capture is armed (R170). -/
  | armed (pattern : BitVec 30) (requested : Nat) (mode : CaptureMode) : CaptureEffect c (.arm pattern requested mode)
  /-- An ARMED capture takes the trigger (R174). -/
  | triggered (armed : c.state = .armed) : CaptureEffect c c.takeTrigger
  /-- A reader's cursor moves within the frozen run (R177). -/
  | cursorMoved (m : Master) (n : Nat) (frozen : c.state = .frozen) (within : n ≤ c.words.length) :
      CaptureEffect c (c.setCursor m n)
  /-- Reset is asserted (R169). -/
  | reset : CaptureEffect c CaptureUnit.reset

theorem CaptureEffect.kept (c : CaptureUnit) : CaptureEffect c c := .notified (.refl c)

theorem captureEffect_completeEvaluation (ev : Evaluation) (s : State) :
    CaptureEffect s.cap (completeEvaluation ev s).cap := by
  rw [completeEvaluation_cap]
  exact .appended (notified_settleCompletion (.refl _) ev) _ _ _ _

theorem captureEffect_readStart (c : CaptureUnit) (m : Master) : CaptureEffect c (c.readStart m).2 := by
  unfold CaptureUnit.readStart
  split
  · next frozen =>
    split
    · exact .cursorMoved m 0 frozen (Nat.zero_le _)
    · next words => exact .cursorMoved m 1 frozen (by simp [words])
  · exact .kept c

theorem captureEffect_readContinue (c : CaptureUnit) (m : Master) : CaptureEffect c (c.readContinue m).2 := by
  unfold CaptureUnit.readContinue
  split
  · next k _ frozen =>
    split
    · exact .kept c
    · next found =>
      obtain ⟨within, -⟩ := List.getElem?_eq_some_iff.mp found
      exact .cursorMoved m (k + 1) frozen within
  · exact .kept c

theorem captureEffect_judgeOf (r : Request) (m : Master) (w : Word) (s : State) :
    CaptureEffect s.cap (judgeOf r m w s).1.cap := by
  cases r with
  | restart =>
    simp only [judgeOf, judgeRestart]
    cases s.sq.state with
    | off | tripped =>
      cases restartCheck s with
      | some _ => exact .kept _
      | none => exact .notified (notified_performRestart (.refl _) _ _)
    | settle | run | mute | discharge => exact .kept _
  | stop =>
    simp only [judgeOf, judgeStop]
    cases s.sq.state with
    | settle | run | mute => exact .notified (notified_addRecord (.refl _) _)
    | off | discharge | tripped => exact .kept _
  | readmit =>
    simp only [judgeOf, judgeReadmit]
    repeat' split
    · exact .kept _
    · exact .kept _
    · exact .kept _
    · exact .notified (notified_addRecord (.refl _) _)
    · exact .kept _
  | strikeClear =>
    simp only [judgeOf, judgeStrikeClear]
    split <;> exact .kept _
  | journalClear =>
    simp only [judgeOf, judgeJournalClear]
    split <;> exact .kept _
  | ownershipClear =>
    simp only [judgeOf, judgeOwnershipClear]
    repeat' split
    all_goals exact .kept _
  | captureArm => exact .armed _ _ _
  | captureStop =>
    simp only [judgeOf, judgeCaptureStop]
    split
    · next armed => exact .triggered armed
    all_goals exact .kept _

theorem captureEffect_takeRequest (r : Request) (m : Master) (lanes : Lanes) (w : Word) (s : State) :
    CaptureEffect s.cap (takeRequest r m lanes w (judgeOf r m w) s).cap := by
  unfold takeRequest
  repeat' split
  · exact .kept _
  · exact captureEffect_judgeOf r _ w s
  · exact captureEffect_judgeOf r _ w s
  all_goals exact .kept _

theorem captureEffect_regionWrite (m : Master) (offset : Nat) (a : Address) (lanes : Lanes) (w : Word) (s : State) :
    CaptureEffect s.cap (regionWrite m offset a lanes w s).cap := by
  unfold regionWrite
  cases areaOf offset with
  | telemetry slot => exact .notified (notified_telemetryWrite (.refl _) m lanes slot w)
  | limitA e => exact .notified (notified_limitWriteA (.refl _) m lanes e w)
  | limitB e => exact .notified (notified_limitWriteB (.refl _) m lanes e w)
  | limitOne e => exact .notified (notified_limitWriteOne (.refl _) m lanes e w)
  | request r => cases r <;> exact captureEffect_takeRequest _ m lanes w s
  | ownership => exact .notified (Notified.refl s.cap).of_kept
  | plain | setpoint _ | effectiveView _ | status _ | headWindow _ | captureStart | captureContinue | captureStatus =>
    exact .kept _

theorem captureEffect_busWrite (m : Master) (a : Address) (lanes : Lanes) (w : Word) (s : State) :
    CaptureEffect s.cap (busWrite m a lanes w s).cap := by
  unfold busWrite
  repeat' split
  · exact .kept _
  · exact .kept _
  · exact captureEffect_regionWrite m _ a lanes w s

/-- Every command has one of these effects on the capture. -/
theorem exec_captureEffect (c : Instr) {s t : State} (hexec : exec c s = .next t) : CaptureEffect s.cap t.cap := by
  have told := Notified.refl s.cap
  cases c with
  | frameHeaderWrite w | dataSlotWrite slot w | frameEnd w =>
    cases hexec; exact .notified (notified_telemetryWrite told _ _ _ _)
  | limitWordAWrite m e w => cases hexec; exact .notified (notified_limitWriteA told _ _ _ _)
  | limitWordBWrite m e w => cases hexec; exact .notified (notified_limitWriteB told _ _ _ _)
  | limitOneWordWrite m e w => cases hexec; exact .notified (notified_limitWriteOne told _ _ _ _)
  | restart m lanes w => cases hexec; exact captureEffect_takeRequest .restart m lanes w s
  | stop m lanes w => cases hexec; exact captureEffect_takeRequest .stop m lanes w s
  | readmit m lanes w => cases hexec; exact captureEffect_takeRequest .readmit m lanes w s
  | strikeClear m lanes w => cases hexec; exact captureEffect_takeRequest .strikeClear m lanes w s
  | journalClear m lanes w => cases hexec; exact captureEffect_takeRequest .journalClear m lanes w s
  | ownershipClear m lanes w => cases hexec; exact captureEffect_takeRequest .ownershipClear m lanes w s
  | captureArm m lanes w => cases hexec; exact captureEffect_takeRequest .captureArm m lanes w s
  | captureStop m lanes w => cases hexec; exact captureEffect_takeRequest .captureStop m lanes w s
  | absorbedWrite m a lanes w => cases hexec; exact captureEffect_busWrite m a lanes w s
  | ownershipWordWrite m lanes w | headWindowWord0Read m x | headWindowWordRead m w x | dlExciterDriveRead x
  | dlTrimRead m x | dlGateRead m x => cases hexec; exact .notified told.of_kept
  | captureStartAliasRead m x =>
    simp only [exec, execCaptureStartAliasRead] at hexec
    split at hexec <;> cases hexec
    · exact .kept _
    · exact captureEffect_readStart s.cap m
  | captureContinueAliasRead m x =>
    simp only [exec, execCaptureContinueAliasRead] at hexec
    split at hexec <;> cases hexec
    · exact .kept _
    · exact captureEffect_readContinue s.cap m
  | frameTimeoutExpiry =>
    simp only [exec, execFrameTimeoutExpiry] at hexec
    split at hexec <;> cases hexec
    · exact .notified (notified_takePendingNow
        (notified_lossDemand (s := s.setTd { s.td with frameTimer := none, telemetryLost := true }) told))
    · exact .kept _
  | evaluationCompletion =>
    simp only [exec, execEvaluationCompletion] at hexec
    split at hexec
    · cases hexec; exact .kept _
    · exact Host.Outcome.next.inj hexec ▸ captureEffect_completeEvaluation _ s
  | arcQualifyExpiry i =>
    simp only [exec, execArcQualifyExpiry] at hexec
    split at hexec <;> cases hexec
    · exact .notified (notified_arcEvent (s := arcBegun i s) told i)
    · exact .kept _
  | arcReleaseExpiry i =>
    simp only [exec, execArcReleaseExpiry] at hexec
    repeat' split at hexec
    all_goals cases hexec
    · exact .kept _
    · exact .notified told.of_kept
    · exact .kept _
  | stuckTimerExpiry i =>
    simp only [exec, execStuckTimerExpiry] at hexec
    split at hexec <;> cases hexec
    · exact .notified (notified_tripDemands (s := inputStuck i s) told _)
    · exact .kept _
  | interlockOpen =>
    simp only [exec, execInterlockOpen] at hexec
    repeat' split at hexec
    all_goals cases hexec
    · exact .kept _
    · exact .kept _
    · exact .notified (notified_tripDemands (s := interlockMoved true s) told _)
  | interlockClose =>
    simp only [exec, execInterlockClose] at hexec
    repeat' split at hexec
    all_goals cases hexec
    · exact .kept _
    · exact .notified (notified_autoRestart (s := interlockMoved false s) told)
    · exact .kept _
  | resetAssert straps => cases hexec; exact .reset
  | ownershipWordRead m x | cpS0Read x | holdOffExpiry | arcLineAssert i | arcLineDeassert i | strikeEntryAgeing
  | settleExpiry | quenchExpiry | dischargeExpiry | resetRelease straps | millisecondCounterTick =>
    simp only [exec, execOwnershipWordRead, execCpS0Read, execHoldOffExpiry, execArcLineAssert, execArcLineDeassert,
      execStrikeEntryAgeing, execSettleExpiry, execQuenchExpiry, execDischargeExpiry, execResetRelease,
      execMillisecondCounterTick] at hexec
    repeat' split at hexec
    all_goals obtain rfl := Host.Outcome.next.inj hexec; exact .kept _

/-! ### The capture stays sound -/

/-- A cursor that moves within the frozen run keeps the capture sound. -/
theorem setCursor_sound {c : CaptureUnit} (h : CaptureSound c) (m : Master) (n : Nat) (frozen : c.state = .frozen)
    (within : n ≤ c.words.length) : CaptureSound (c.setCursor m n) := by
  obtain ⟨size, capacity, ring, words, count, remaining, post, stopped, armed, -, cp, sp⟩ := h
  cases m with
  | cp => exact ⟨size, capacity, ring, words, count, remaining, post, stopped, armed, absurd frozen, within, sp⟩
  | sp => exact ⟨size, capacity, ring, words, count, remaining, post, stopped, armed, absurd frozen, cp, within⟩
  | ts | dl => exact ⟨size, capacity, ring, words, count, remaining, post, stopped, armed, absurd frozen, cp, sp⟩

/-- Whatever a command does to it, the capture stays sound. -/
theorem CaptureEffect.sound {c d : CaptureUnit} (e : CaptureEffect c d) (h : CaptureSound c) : CaptureSound d := by
  cases e with
  | notified told => exact told.sound h
  | appended told seq st e channels =>
    have recorded := told.sound h
    exact append_sound _ recorded _ (frameRecord_length _ recorded seq st e channels)
  | armed pattern requested mode => exact arm_sound pattern requested mode
  | triggered armed => exact takeTrigger_sound c h armed
  | cursorMoved m n frozen within => exact setCursor_sound h m n frozen within
  | reset => exact captureSound_reset

/-- Settles O8: a step has one of a command's effects on the capture, each of which keeps it sound, or idles. -/
theorem stepsKeepTheCaptureSound : Obligations.StepsKeepTheCaptureSound := by
  intro s t h hstep
  rcases step_cases hstep with rfl | ⟨c, rest, hexec⟩
  · exact h
  · exact (exec_captureEffect c hexec).sound h

end Sys2Proof.Machine
end

section
/-! PROOF. CAPTURE ARM and CAPTURE STOP (R170, R174, R175). -/

namespace Sys2Proof.Machine

/-! ### Arming -/

theorem captureModeOf_eq (value : Word) : captureModeOf value = if value.getLsbD 16 then .continuous else .single := by
  rw [captureModeOf, flag_eq_getLsbD]

/-- The post count asked for is the low 11 bits of the request's word (R194). -/
theorem requestedPostCount_eq (value : Word) : field value 0 11 = value.toNat % 2048 := by
  rw [field, pow_zero, Nat.div_one]
  rfl

/-! ### The trigger -/

theorem takeTrigger_zero (c : CaptureUnit) (none : c.postCount = 0) :
    c.takeTrigger = { c with preTrigger := c.ring.length, state := .frozen } := if_pos none

theorem takeTrigger_pos (c : CaptureUnit) (some : c.postCount ≠ 0) :
    c.takeTrigger = { c with preTrigger := c.ring.length, state := .post, postRemaining := c.postCount } := if_neg some

theorem judgeCaptureStop_armed (s : State) (armed : s.cap.state = .armed) :
    judgeCaptureStop s = (s.setCap s.cap.takeTrigger, .accepted) := by
  rw [judgeCaptureStop, armed]

theorem judgeCaptureStop_refused (s : State) (unarmed : s.cap.state ≠ .armed) :
    judgeCaptureStop s = (s, .refusedState) := by
  unfold judgeCaptureStop
  cases hs : s.cap.state with
  | armed => exact absurd hs unarmed
  | idle | post | frozen => rfl

/-- Settles O48: CAPTURE ARM by its sizes, and CAPTURE STOP by the capture's state and its post count. -/
theorem captureRequestsArmAndTrigger : Obligations.CaptureRequestsArmAndTrigger := by
  intro m value s operating commands
  have stop {t : State} {result : RequestResult} (judged : judgeCaptureStop s = (t, result)) :
      exec (.captureStop m 0xF value) s = .next (t.answered .captureStop m result) :=
    exec_judgedRequest rfl operating commands judged
  refine ⟨fun p k r n pattern channels size capacity => ?_, fun armed none => ?_, fun armed some => ?_,
    fun unarmed => stop (judgeCaptureStop_refused s unarmed)⟩
  · subst pattern channels size capacity
    rw [exec_judgedRequest (judge := judgeCaptureArm value) rfl operating commands rfl, captureModeOf_eq,
      requestedPostCount_eq]
    rfl
  · rw [stop (judgeCaptureStop_armed s armed), takeTrigger_zero _ none]
    rfl
  · rw [stop (judgeCaptureStop_armed s armed), takeTrigger_pos _ some]
    rfl

end Sys2Proof.Machine
end

section
/-! PROOF. The frozen run of record words, and the reads that walk it (R171, R177, R196). -/

namespace Sys2Proof.Machine

/-! ### The words of a frame record -/

theorem header_toNat (f : FrameRecord) : f.header.toNat =
    f.seq.toNat + 2 ^ 8 * seqStateCode f.seqState + 2 ^ 11 * f.mark.toNat + 2 ^ 12 * (f.e % 4096) := by
  have seq := f.seq.isLt
  have state := seqStateCode_le f.seqState
  have mark := toNat_lt_two f.mark
  refine pack_toNat _ _ ?_ (by omega)
  simp only [packSum_cons, packSum_nil]
  omega

/-- A value alone in its word stands in the lower half, and the upper half is 0. -/
theorem lastValueWord_toNat (a : Int) : (pack [(signed16 a, 0, 16)]).toNat = (a % 65536).toNat := by
  rw [pack_single _ _ (by decide)]
  simp only [Nat.reducePow, signed16_mod]

theorem valuePairWord_toNat (a b : Int) : (pack [(signed16 a, 0, 16), (signed16 b, 16, 16)]).toNat =
    (a % 65536).toNat + 65536 * (b % 65536).toNat := by
  rw [pack_halves _ _ _ _ (by decide) (by decide)]
  simp only [Nat.reducePow, signed16_mod]

/-- Value k stands in word k / 2, the even ones in the lower half and the odd ones in the upper (R171). -/
theorem valueWords_half (l : List Int) (k : Nat) (v : Int) (found : l[k]? = some v) :
    ((valueWords l).getD (k / 2) 0).toNat / 65536 ^ (k % 2) % 65536 = (v % 65536).toNat := by
  match l, k with
  | [], k => simp at found
  | [a], 0 =>
    obtain rfl := Option.some.inj found
    have word := lastValueWord_toNat a
    simp only [valueWords, Nat.zero_div, List.getD_cons_zero, word, Nat.zero_mod, pow_zero]
    omega
  | [a], k + 1 => simp at found
  | a :: b :: rest, 0 =>
    obtain rfl := Option.some.inj found
    have word := valuePairWord_toNat a b
    simp only [valueWords, Nat.zero_div, List.getD_cons_zero, word, Nat.zero_mod, pow_zero]
    omega
  | a :: b :: rest, 1 =>
    obtain rfl := Option.some.inj found
    have word := valuePairWord_toNat a b
    simp only [valueWords, Nat.reduceDiv, List.getD_cons_zero, word, Nat.reduceMod, pow_one]
    omega
  | a :: b :: rest, k + 2 =>
    have later := valueWords_half rest k v found
    rwa [valueWords, Nat.add_div_right k Nat.two_pos, List.getD_cons_succ, Nat.add_mod_right]

/-- With an odd number of values the last one's upper half is 0 (R171). -/
theorem valueWords_lastHalf (l : List Int) (odd : l.length % 2 = 1) :
    ((valueWords l).getD (l.length / 2) 0).toNat / 65536 = 0 := by
  match l with
  | [] => simp at odd
  | [a] =>
    have word := lastValueWord_toNat a
    simp only [valueWords, List.length_singleton, Nat.reduceDiv, List.getD_cons_zero, word]
    omega
  | a :: b :: rest =>
    rw [List.length_cons, List.length_cons] at odd ⊢
    have later := valueWords_lastHalf rest (by omega)
    rwa [valueWords, Nat.add_div_right rest.length Nat.two_pos, List.getD_cons_succ]

/-! ### The readers' cursors -/

/-- The cursor of a commanding master (R177). -/
theorem cursor_commands (c : CaptureUnit) (m : Master) (commands : m.commands) :
    c.cursor m = some (if m = .cp then c.cursorCp else c.cursorSp) := by
  cases m with
  | cp | sp => rfl
  | ts | dl => exact commands.elim

theorem setCursor_commands (c : CaptureUnit) (m : Master) (n : Nat) (commands : m.commands) :
    c.setCursor m n = if m = .cp then { c with cursorCp := n } else { c with cursorSp := n } := by
  cases m with
  | cp | sp => rfl
  | ts | dl => exact commands.elim

/-! ### The reads -/

section
variable {c : CaptureUnit} {m : Master}

theorem readStart_first (commands : m.commands) (frozen : c.state = .frozen) {w : Word} {rest : List Word}
    (run : c.words = w :: rest) : c.readStart m = (w, c.setCursor m 1) := by
  simp only [CaptureUnit.readStart, cursor_commands c m commands, frozen, run]

theorem readStart_empty (commands : m.commands) (frozen : c.state = .frozen) (run : c.words = []) :
    c.readStart m = (endMarker, c.setCursor m 0) := by
  simp only [CaptureUnit.readStart, cursor_commands c m commands, frozen, run]

theorem readContinue_within (frozen : c.state = .frozen) {cursor : Nat}
    (own : c.cursor m = some cursor) (within : cursor < c.words.length) :
    c.readContinue m = (c.words[cursor], c.setCursor m (cursor + 1)) := by
  simp only [CaptureUnit.readContinue, own, frozen, List.getElem?_eq_getElem within]

theorem readContinue_past (frozen : c.state = .frozen) {cursor : Nat} (own : c.cursor m = some cursor)
    (past : c.words.length ≤ cursor) : c.readContinue m = (endMarker, c) := by
  simp only [CaptureUnit.readContinue, own, frozen, List.getElem?_eq_none past]

/-- Outside FROZEN, and for a master with no cursor, both reads are answered not frozen (R177). -/
theorem reads_notFrozen (barred : c.state ≠ .frozen ∨ ¬ m.commands) :
    c.readStart m = (notFrozen, c) ∧ c.readContinue m = (notFrozen, c) := by
  unfold CaptureUnit.readStart CaptureUnit.readContinue
  rcases barred with unfrozen | bare
  · cases hs : c.state with
    | frozen => exact absurd hs unfrozen
    | idle | armed | post => cases m <;> exact ⟨rfl, rfl⟩
  · cases m with
    | cp | sp => exact absurd trivial bare
    | ts | dl => exact ⟨rfl, rfl⟩

end

theorem exec_captureStartAliasRead (m : Master) (x : BitVec 4) (s : State) (operating : s.operating) :
    exec (.captureStartAliasRead m x) s =
      .next (State.replied { s with cap := (s.cap.readStart m).2 } m x (s.cap.readStart m).1) :=
  if_neg (Bool.eq_false_iff.mp operating)

theorem exec_captureContinueAliasRead (m : Master) (x : BitVec 4) (s : State) (operating : s.operating) :
    exec (.captureContinueAliasRead m x) s =
      .next (State.replied { s with cap := (s.cap.readContinue m).2 } m x (s.cap.readContinue m).1) :=
  if_neg (Bool.eq_false_iff.mp operating)

/-- Settles O55: the layout of a record's words, and each read by whether the capture is frozen and by the reader's cursor. -/
theorem captureReadsWalkTheFrozenRun : Obligations.CaptureReadsWalkTheFrozenRun := by
  refine ⟨fun f => ⟨?_, header_toNat f, fun k v found => ?_, fun odd => ?_⟩, fun c => List.flatMap_def,
    fun m x s cursor operating => ?_⟩
  · rw [FrameRecord.words, List.length_cons, valueWords_length, Nat.add_comm]
  · rw [FrameRecord.words, Nat.add_comm, List.getD_cons_succ]
    exact valueWords_half f.values k v found
  · rw [FrameRecord.words, List.getD_cons_succ]
    exact valueWords_lastHalf f.values odd
  rw [exec_captureStartAliasRead m x s operating, exec_captureContinueAliasRead m x s operating]
  refine ⟨fun frozen commands hcursor => ?_, fun barred => ?_⟩
  · have own : s.cap.cursor m = some cursor := by rw [cursor_commands s.cap m commands, hcursor]
    refine ⟨fun w rest run => ?_, fun run => ?_, fun within => ?_, fun past => ?_⟩
    · rw [readStart_first commands frozen run, setCursor_commands _ _ _ commands]
    · rw [readStart_empty commands frozen run, setCursor_commands _ _ _ commands]
      rfl
    · rw [readContinue_within frozen own within, setCursor_commands _ _ _ commands]
    · rw [readContinue_past frozen own past]
      rfl
  · obtain ⟨start, next⟩ := reads_notFrozen barred
    rw [start, next]
    exact ⟨rfl, rfl⟩

end Sys2Proof.Machine
end

section
/-! PROOF. Writes to the request words that are turned away: the wrong master's, and those with some lanes only (R182, R188). -/

namespace Sys2Proof.Machine

/-- Outside reset a full-lane request of the scanner or the drive link is refused, and is one misuse (R188). -/
theorem takeRequest_refused {m : Master} {s : State} (r : Request) (value : Word) (judge : State → State × RequestResult)
    (operating : s.operating) (barred : m = .ts ∨ m = .dl) :
    takeRequest r m 0xF value judge s = (s.answered r m .refusedMaster).misused (requestOffset r) := by
  rw [takeRequest.eq_def, if_neg (Bool.eq_false_iff.mp operating), if_pos ((fullLanes_iff _).mpr rfl)]
  rcases barred with rfl | rfl <;> rfl

/-- Outside reset a request written with some lanes only is no request, and is one misuse (R182). -/
theorem takeRequest_partial {m : Master} {lanes : Lanes} {s : State} (r : Request) (value : Word)
    (judge : State → State × RequestResult) (operating : s.operating) (partly : lanes ≠ 0xF) :
    takeRequest r m lanes value judge s = s.misused (requestOffset r) := by
  rw [takeRequest.eq_def, if_neg (Bool.eq_false_iff.mp operating), if_neg (mt (fullLanes_iff _).mp partly)]
  rfl

/-- Settles O49: each of the eight is a write of its request word, turned away by its master or its lanes. -/
theorem strayRequestsAreMisuse : Obligations.StrayRequestsAreMisuse := by
  intro m lanes value s c r offset operating row
  obtain ⟨request, rfl⟩ :
      exec c s = .next (takeRequest r m lanes value (judgeOf r m value) s) ∧ offset = requestOffset r := by
    rcases row with ⟨rfl, rfl, rfl⟩ | ⟨rfl, rfl, rfl⟩ | ⟨rfl, rfl, rfl⟩ | ⟨rfl, rfl, rfl⟩ | ⟨rfl, rfl, rfl⟩ |
      ⟨rfl, rfl, rfl⟩ | ⟨rfl, rfl, rfl⟩ | ⟨rfl, rfl, rfl⟩ <;> exact ⟨rfl, rfl⟩
  rw [request]
  refine ⟨fun full barred => ?_, fun partly => ?_⟩
  · subst full
    rw [takeRequest_refused r value _ operating barred]
  · rw [takeRequest_partial r value _ operating partly]

end Sys2Proof.Machine
end

section
/-! PROOF. Accesses during reset: memory takes every write and answers every read but the drive link's of a setpoint word
(R180, R191). -/

namespace Sys2Proof.Machine

section
variable {s : State} (reset : s.pins.resetAsserted = true)
include reset

/-! ### Writes -/

theorem telemetryWrite_reset (m : Master) (lanes : Lanes) (slot : Fin 32) (w : Word) :
    telemetryWrite m lanes slot w s = s.forwardWrite (regionAddress s (slotOffset slot)) lanes w := if_pos reset

theorem limitWrite_reset (m : Master) (lanes : Lanes) (offset : Nat) (w : Word) (take : State → State) :
    limitWrite m lanes offset w take s = s.forwardWrite (regionAddress s offset) lanes w := if_pos reset

theorem takeRequest_reset (r : Request) (m : Master) (lanes : Lanes) (w : Word) (judge : State → State × RequestResult) :
    takeRequest r m lanes w judge s = s.forwardWrite (regionAddress s (requestOffset r)) lanes w := if_pos reset

theorem ownershipWrite_reset (m : Master) (lanes : Lanes) (w : Word) :
    ownershipWrite m lanes w s = s.forwardWrite (regionAddress s ownershipOffset) lanes w := if_pos reset

theorem busWrite_reset (m : Master) (a : Address) (lanes : Lanes) (w : Word) :
    busWrite m a lanes w s = s.forwardWrite a lanes w := if_pos reset

/-! ### Reads -/

theorem windowRead_reset (m : Master) (word : Fin 4) (x : BitVec 4) : windowRead m word x s =
    s.replied m x (s.mem.readWord (regionAddress s (headWindowOffset word))) := if_pos reset

/-- During reset the region stands where the straps put it (R180). -/
theorem regionNumber_reset : regionNumber s = s.pins.straps.toNat := if_pos reset

/-- A drive-link read of a setpoint word makes no memory access during reset, and is answered 0 (R191). -/
theorem busRead_reset_setpoint (a : Address) (x : BitVec 4) (inside : a.toNat / 4096 = s.pins.straps.toNat)
    (setpoint : a.toNat % 4096 < 0x011) : busRead .dl a x s = s.replied .dl x 0 := by
  have offset : regionOffset s a = some (a.toNat % 4096) := if_pos (inside.trans (regionNumber_reset reset).symm)
  obtain ⟨w, area⟩ := (areaOf_setpoint_iff _).mpr setpoint
  unfold busRead
  rw [offset]
  dsimp only
  rw [if_pos reset, area]
  rfl

/-- Every other read during reset is answered by memory (R191). -/
theorem busRead_reset_forwarded {m : Master} (a : Address) (x : BitVec 4)
    (plainly : m ≠ .dl ∨ a.toNat / 4096 ≠ s.pins.straps.toNat ∨ 0x011 ≤ a.toNat % 4096) :
    busRead m a x s = s.replied m x (s.mem.readWord a) := by
  by_cases inside : a.toNat / 4096 = s.pins.straps.toNat
  · have offset : regionOffset s a = some (a.toNat % 4096) := if_pos (inside.trans (regionNumber_reset reset).symm)
    unfold busRead
    rw [offset]
    dsimp only
    rw [if_pos reset]
    split
    · next w area =>
      have setpoint := (areaOf_setpoint_iff _).mp ⟨w, area⟩
      rcases plainly with other | outside | above
      · exact absurd rfl other
      · exact absurd inside outside
      · omega
    · rfl
  · rw [← regionNumber_reset reset] at inside
    unfold busRead
    rw [regionOffset_outside s a inside]
    rfl

end

/-- Settles O59: each write is forwarded from where its row puts it, and each read answered by its master and address. -/
theorem resetForwardsEveryAccess : Obligations.ResetForwardsEveryAccess := by
  intro m lanes w s reset wf
  refine ⟨fun c a used row => ?_, fun a x => ⟨?_, busRead_reset_forwarded reset a x⟩, fun x => ?_⟩
  · have forwarded : exec c s = .next (s.forwardWrite a used w) := by
      have request (r : Request) := takeRequest_reset reset r m lanes w (judgeOf r m w)
      have slot (k : Fin 32) := telemetryWrite_reset reset .ts 0xF k w
      rcases row with ⟨rfl, rfl, rfl⟩ | ⟨k, rfl, rfl, rfl⟩ | ⟨rfl, rfl, rfl⟩ | ⟨e, rfl, rfl, rfl⟩ | ⟨e, rfl, rfl, rfl⟩ |
        ⟨e, rfl, rfl, rfl⟩ | ⟨rfl, rfl, rfl⟩ | ⟨rfl, rfl, rfl⟩ | ⟨rfl, rfl, rfl⟩ | ⟨rfl, rfl, rfl⟩ | ⟨rfl, rfl, rfl⟩ |
        ⟨rfl, rfl, rfl⟩ | ⟨rfl, rfl, rfl⟩ | ⟨rfl, rfl, rfl⟩ | ⟨rfl, rfl, rfl⟩ | ⟨rfl, rfl⟩
      · exact congrArg _ (slot 0)
      · exact congrArg _ (slot k)
      · exact congrArg _ (slot 31)
      · exact congrArg _ (limitWrite_reset reset m 0xF (wordAOffset e) w _)
      · exact congrArg _ (limitWrite_reset reset m 0xF (wordBOffset e) w _)
      · exact congrArg _ (limitWrite_reset reset m 0xF (oneWordOffset e) w _)
      · exact congrArg _ (request .restart)
      · exact congrArg _ (request .stop)
      · exact congrArg _ (request .readmit)
      · exact congrArg _ (request .strikeClear)
      · exact congrArg _ (request .journalClear)
      · exact congrArg _ (request .ownershipClear)
      · exact congrArg _ (request .captureArm)
      · exact congrArg _ (request .captureStop)
      · exact congrArg _ (ownershipWrite_reset reset m _ w)
      · exact congrArg _ (busWrite_reset reset m a _ w)
    exact ⟨_, forwarded, rfl, storesLanes_of_writeWord a used w wf rfl⟩
  · rintro ⟨rfl, inside, setpoint⟩
    exact busRead_reset_setpoint reset a x inside setpoint
  · exact ⟨if_pos reset, congrArg _ (windowRead_reset reset m 0 x), fun k => congrArg _ (windowRead_reset reset m k x),
      if_pos reset, if_pos reset, if_pos reset⟩

end Sys2Proof.Machine
end

section
/-! PROOF. What one command can do to the shared SRAM and to the queue: it answers a next state, in which memory stands
but for one word at most, and the queue stands. -/

namespace Sys2Proof.Machine

/-- A change that leaves the queue, and leaves memory but for one word written at most. -/
structure Access (s t : State) : Prop where
  memory : t.mem = s.mem ∨ ∃ a lanes w, t.mem = s.mem.writeWord a lanes w
  queue : t.pending = s.pending

/-- A change within the part's own blocks makes no access to memory. -/
theorem Access.within {s t : State} (memory : t.mem = s.mem := by simp) (queue : t.pending = s.pending := by simp) :
    Access s t := ⟨.inl memory, queue⟩

theorem access_forwardWrite (s : State) (a : Address) (lanes : Lanes) (w : Word) :
    Access s (s.forwardWrite a lanes w) := ⟨.inr ⟨a, lanes, w, rfl⟩, rfl⟩

/-- A change within the part's own blocks after an access. -/
theorem Access.andThen {s u t : State} (h : Access s u) (memory : t.mem = u.mem := by simp)
    (queue : t.pending = u.pending := by simp) : Access s t := by
  obtain ⟨accessed, stands⟩ := h
  exact ⟨by rw [memory]; exact accessed, queue.trans stands⟩

/-- A word written or none, memory stays canonical. -/
theorem Access.memory_wf {s t : State} (h : Access s t) (wf : s.mem.wf = true) : t.mem.wf = true := by
  obtain ⟨kept | ⟨a, lanes, w, written⟩, -⟩ := h
  · rw [kept]; exact wf
  · rw [written]; exact Memory.writeWord_wf _ a lanes w wf

/-! ### Writes to the telemetry area and to the limits -/

@[simp] theorem takeEnd_mem (w : Word) (s : State) : (takeEnd w s).mem = s.mem := by
  unfold takeEnd
  split <;> simp

@[simp] theorem takeEnd_pending (w : Word) (s : State) : (takeEnd w s).pending = s.pending := by
  unfold takeEnd
  split <;> simp

@[simp] theorem takeSlot_mem (slot : Fin 32) (w : Word) (s : State) : (takeSlot slot w s).mem = s.mem := by
  unfold takeSlot
  repeat' split
  all_goals simp

@[simp] theorem takeSlot_pending (slot : Fin 32) (w : Word) (s : State) :
    (takeSlot slot w s).pending = s.pending := by
  unfold takeSlot
  repeat' split
  all_goals simp

theorem access_telemetryWrite (m : Master) (lanes : Lanes) (slot : Fin 32) (w : Word) (s : State) :
    Access s (telemetryWrite m lanes slot w s) := by
  have stored := access_forwardWrite s (regionAddress s (slotOffset slot)) lanes w
  unfold telemetryWrite
  dsimp only
  split
  · exact stored
  · split <;> exact stored.andThen

/-- A write to a limit entry stores its word, whatever is made of it. -/
theorem access_limitWrite (m : Master) (lanes : Lanes) (offset : Nat) (w : Word) (take : State → State) (s : State)
    (memory : ∀ u, (take u).mem = u.mem := by simp) (queue : ∀ u, (take u).pending = u.pending := by simp) :
    Access s (limitWrite m lanes offset w take s) := by
  have stored := access_forwardWrite s (regionAddress s offset) lanes w
  unfold limitWrite
  dsimp only
  split
  · exact stored
  · split
    · exact stored.andThen (memory _) (queue _)
    · exact stored.andThen

/-! ### Requests -/

/-- The block that judges a request reaches neither memory nor the queue. -/
theorem judgeOf_memory_queue (r : Request) (m : Master) (w : Word) (s : State) :
    (judgeOf r m w s).1.mem = s.mem ∧ (judgeOf r m w s).1.pending = s.pending := by
  cases r with
  | restart =>
    simp only [judgeOf, judgeRestart]
    cases s.sq.state with
    | off | tripped => cases restartCheck s <;> simp
    | settle | run | mute | discharge => exact ⟨rfl, rfl⟩
  | stop =>
    simp only [judgeOf, judgeStop]
    cases s.sq.state <;> exact ⟨rfl, rfl⟩
  | readmit =>
    simp only [judgeOf, judgeReadmit]
    repeat' split
    all_goals exact ⟨rfl, rfl⟩
  | strikeClear =>
    simp only [judgeOf, judgeStrikeClear]
    cases s.sq.state <;> exact ⟨rfl, rfl⟩
  | journalClear =>
    simp only [judgeOf, judgeJournalClear]
    split <;> exact ⟨rfl, rfl⟩
  | ownershipClear =>
    simp only [judgeOf, judgeOwnershipClear]
    cases m with
    | sp => dsimp only; split <;> exact ⟨rfl, rfl⟩
    | cp | ts | dl => exact ⟨rfl, rfl⟩
  | captureArm => exact ⟨rfl, rfl⟩
  | captureStop =>
    simp only [judgeOf, judgeCaptureStop]
    cases s.cap.state <;> exact ⟨rfl, rfl⟩

/-- A request reaches memory during reset alone. -/
theorem access_takeRequest (r : Request) (m : Master) (lanes : Lanes) (w : Word) (s : State) :
    Access s (takeRequest r m lanes w (judgeOf r m w) s) := by
  obtain ⟨memory, queue⟩ := judgeOf_memory_queue r m w s
  unfold takeRequest
  split
  · exact access_forwardWrite s _ lanes w
  · split
    · cases m with
      | cp | sp => exact .within memory queue
      | ts | dl => exact .within
    · exact .within

theorem access_ownershipWrite (m : Master) (lanes : Lanes) (w : Word) (s : State) :
    Access s (ownershipWrite m lanes w s) := by
  unfold ownershipWrite
  split
  · exact access_forwardWrite s _ lanes w
  · split <;> exact .within

/-! ### Any write -/

theorem access_regionWrite (m : Master) (offset : Nat) (a : Address) (lanes : Lanes) (w : Word) (s : State) :
    Access s (regionWrite m offset a lanes w s) := by
  unfold regionWrite
  cases areaOf offset with
  | plain | setpoint _ => exact access_forwardWrite s a lanes w
  | telemetry slot => exact access_telemetryWrite m lanes slot w s
  | limitA e | limitB e | limitOne e => exact access_limitWrite m lanes _ w _ s
  | request r => cases r <;> exact access_takeRequest _ m lanes w s
  | ownership => exact access_ownershipWrite m lanes w s
  | effectiveView _ | status _ | headWindow _ | captureStart | captureContinue | captureStatus => exact .within

theorem access_busWrite (m : Master) (a : Address) (lanes : Lanes) (w : Word) (s : State) :
    Access s (busWrite m a lanes w s) := by
  unfold busWrite
  split
  · exact access_forwardWrite s a lanes w
  · split
    · exact access_forwardWrite s a lanes w
    · exact access_regionWrite m _ a lanes w s

/-! ### Every command -/

/-- An outcome that is a next state, reached by one access to memory at most. -/
def Answers (s : State) (o : Host.Outcome State Fault Refusal) : Prop := ∃ t, o = .next t ∧ Access s t

theorem Answers.next {s t : State} (h : Access s t) : Answers s (.next t) := ⟨t, rfl, h⟩

/-- A next state reached within the part's own blocks. -/
theorem Answers.within {s t : State} (memory : t.mem = s.mem := by simp) (queue : t.pending = s.pending := by simp) :
    Answers s (.next t) := .next (.within memory queue)

/-- A command that acts on a condition answers if it does on either side of it. -/
theorem Answers.ite {s : State} {o p : Host.Outcome State Fault Refusal} {c : Prop} [Decidable c] (ho : Answers s o)
    (hp : Answers s p) : Answers s (if c then o else p) := by
  split
  · exact ho
  · exact hp

/-- Every command answers a next state, by one access to memory at most. -/
theorem exec_answers (c : Instr) (s : State) : Answers s (exec c s) := by
  cases c with
  | frameHeaderWrite w | dataSlotWrite slot w | frameEnd w => exact .next (access_telemetryWrite _ _ _ _ _)
  | limitWordAWrite m e w | limitWordBWrite m e w | limitOneWordWrite m e w =>
    exact .next (access_limitWrite _ _ _ _ _ _)
  | restart m lanes w => exact .next (access_takeRequest .restart m lanes w s)
  | stop m lanes w => exact .next (access_takeRequest .stop m lanes w s)
  | readmit m lanes w => exact .next (access_takeRequest .readmit m lanes w s)
  | strikeClear m lanes w => exact .next (access_takeRequest .strikeClear m lanes w s)
  | journalClear m lanes w => exact .next (access_takeRequest .journalClear m lanes w s)
  | ownershipClear m lanes w => exact .next (access_takeRequest .ownershipClear m lanes w s)
  | captureArm m lanes w => exact .next (access_takeRequest .captureArm m lanes w s)
  | captureStop m lanes w => exact .next (access_takeRequest .captureStop m lanes w s)
  | ownershipWordWrite m lanes w => exact .next (access_ownershipWrite m lanes w s)
  | absorbedWrite m a lanes w => exact .next (access_busWrite m a lanes w s)
  | dlExciterDriveRead x | dlTrimRead m x | dlGateRead m x | headWindowWord0Read m x | headWindowWordRead m w x =>
    exact .within
  | resetAssert straps => exact .within rfl rfl
  | ownershipWordRead m x | cpS0Read x | captureStartAliasRead m x | captureContinueAliasRead m x | arcLineAssert i
  | arcLineDeassert i | resetRelease straps | millisecondCounterTick =>
    exact .ite (.within rfl rfl) (.within rfl rfl)
  | frameTimeoutExpiry | arcQualifyExpiry i | stuckTimerExpiry i | dischargeExpiry => exact .ite .within .within
  | arcReleaseExpiry i | interlockClose | settleExpiry | quenchExpiry => exact .ite (.ite .within .within) .within
  | interlockOpen => exact .ite .within (.ite .within .within)
  | evaluationCompletion =>
    simp only [exec, execEvaluationCompletion]
    split <;> exact .within
  | holdOffExpiry =>
    simp only [exec, execHoldOffExpiry]
    split <;> exact .within
  | strikeEntryAgeing =>
    simp only [exec, execStrikeEntryAgeing]
    split
    · exact .within
    · exact .ite .within .within

/-- Settles O4: a step's command writes one word to memory at most, and a word written keeps memory canonical. -/
theorem stepsKeepMemoryCanonical : Obligations.StepsKeepMemoryCanonical := by
  intro s t wf hstep
  rcases step_cases hstep with rfl | ⟨c, rest, hexec⟩
  · exact wf
  · obtain ⟨u, answered, access⟩ := exec_answers c { s with pending := rest }
    obtain rfl := Host.Outcome.next.inj (answered.symm.trans hexec)
    exact access.memory_wf wf

/-- Settles O2: no access of a command reaches the queue. -/
theorem everyCommandAnswersANextState : Obligations.EveryCommandAnswersANextState := by
  intro c s
  obtain ⟨t, answered, access⟩ := exec_answers c s
  exact ⟨t, answered, access.queue⟩

/-! ### The step -/

theorem step_cons {c : Instr} {rest : List Instr} {s : State} (waiting : s.pending = c :: rest) :
    step s = exec c { s with pending := rest } := by
  rw [step, waiting]

theorem step_nil {s : State} (idle : s.pending = []) : step s = .next s := by
  rw [step, idle]

/-- Settles O1: by whether a command waits. -/
theorem stepTakesTheFrontCommand : Obligations.StepTakesTheFrontCommand :=
  ⟨fun _ _ _ waiting => step_cons waiting, fun _ idle => step_nil idle⟩

end Sys2Proof.Machine
end
